-- ==== Sys2Proof/Word.lean ====
section
/-! DEFINITION. The word types of the engine (00_scope.md R6, R7): every value is an unsigned bit vector of one fixed width. -/

namespace Sys2Proof

/-- A state, schedule or read-data word: 32 bits, unsigned; `+` is addition modulo 2^32 (R6, R82). -/
abbrev Word := BitVec 32

/-- A message, block or digest byte: 8 bits (R6). -/
abbrev Byte := BitVec 8

/-- A command word: 16 bits (R6, R48). -/
abbrev CmdWord := BitVec 16

/-- A read-port address: 7 bits (R6, R49). -/
abbrev Addr := BitVec 7

/-- The bit counter and the length field: 64 bits; `+` is addition modulo 2^64 (R6, R9). -/
abbrev Count := BitVec 64

/-- The eight chaining words `H[0..7]` (R13). -/
abbrev Chain := Vector Word 8

/-- A 64-byte block, index 0 first (R100), and the input buffer's shape (R13). -/
abbrev Block := Vector Byte 64

/-- The 32 digest bytes (R13). -/
abbrev Digest := Vector Byte 32

end Sys2Proof
end

