-- ==== Sys2Proof/Machine/Operands.lean ====
section
/-! DEFINITION. The operand forms: bytes to words and back, always most significant byte first (00_scope.md R10, 20_memory.md R34), the
block of a byte sequence (R100), the digest's serialisation (R116), and the views of DIGEST that the read port selects (R29, R128, R130). -/

namespace Sys2Proof.Machine

/-- `be32(b0, b1, b2, b3)` of R10: `b0` in bits 31:24. -/
def be32 (b0 b1 b2 b3 : Byte) : Word := b0 ++ b1 ++ b2 ++ b3

/-- `bytes32(w)` of R10: the four bytes of `w`, most significant first. -/
def bytes32 (w : Word) : List Byte :=
  [w.extractLsb' 24 8, w.extractLsb' 16 8, w.extractLsb' 8 8, w.extractLsb' 0 8]

/-- `be64bytes(v)` of R10: the eight bytes of `v`, most significant first. -/
def be64bytes (v : Count) : List Byte :=
  [v.extractLsb' 56 8, v.extractLsb' 48 8, v.extractLsb' 40 8, v.extractLsb' 32 8,
   v.extractLsb' 24 8, v.extractLsb' 16 8, v.extractLsb' 8 8, v.extractLsb' 0 8]

/-- `zeros(n)` of R8. -/
def zeros (n : Nat) : List Byte := List.replicate n 0x00#8

/-- A byte sequence of length 64 as the block it is, index 0 first (R100). Every caller passes exactly 64 bytes
(`Sys2Proof.Laws.firstPadding_length`, `finalPadding_length`). -/
def blockOf (p : List Byte) : Block := Vector.ofFn fun k => p.getD k 0x00#8

/-- The digest serialisation of R116: `DIGEST[4i + k] = H[i][31 - 8k : 24 - 8k]`. -/
def serialize (h : Chain) : Digest :=
  Vector.ofFn fun p => h[p.val / 4].extractLsb' (24 - 8 * (p.val % 4)) 8

/-- The value of DIGEST_W`i` (R29, R128): `be32(DIGEST[4i], DIGEST[4i+1], DIGEST[4i+2], DIGEST[4i+3])`. -/
def digestWord (d : Digest) (i : BitVec 3) : Word :=
  have hi : i.toNat < 8 := i.isLt
  be32 d[4 * i.toNat] d[4 * i.toNat + 1] d[4 * i.toNat + 2] d[4 * i.toNat + 3]

/-- `hexdigit(v)` of R129: the ASCII code of a 4-bit value's lowercase hex digit. -/
def hexdigit (v : BitVec 4) : Byte :=
  if v.toNat ≤ 9 then 0x30#8 + v.setWidth 8 else 0x61#8 + (v.setWidth 8 - 10#8)

/-- `hexchar(D, j)` of R130: the high nibble of byte `j / 2` for even `j`, the low nibble for odd `j`. -/
def hexchar (d : Digest) (j : BitVec 6) : Byte :=
  have hj : j.toNat < 64 := j.isLt
  let b := d[j.toNat / 2]
  if j.toNat % 2 = 0 then hexdigit (b.extractLsb' 4 4) else hexdigit (b.extractLsb' 0 4)

end Sys2Proof.Machine
end

