-- ==== Sys2Proof/Machine/WordFunctions.lean ====
section
/-! DEFINITION. The 32-bit word functions of 41_compress.md section 1 (R80 to R88). -/

namespace Sys2Proof.Machine

/-- `rotr(x, n)` of R80, for `0 < n < 32`. -/
def rotr (x : Word) (n : Nat) : Word := (x >>> n) ||| (x <<< (32 - n))

/-- `sig0` of R83, the source's σ0. -/
def sig0 (x : Word) : Word := rotr x 7 ^^^ rotr x 18 ^^^ (x >>> 3)

/-- `sig1` of R84, the source's σ1. -/
def sig1 (x : Word) : Word := rotr x 17 ^^^ rotr x 19 ^^^ (x >>> 10)

/-- `Sum0` of R85, the source's Σ0, applied to `a`. -/
def sum0 (x : Word) : Word := rotr x 2 ^^^ rotr x 13 ^^^ rotr x 22

/-- `Sum1` of R86, the source's Σ1, applied to `e`. -/
def sum1 (x : Word) : Word := rotr x 6 ^^^ rotr x 11 ^^^ rotr x 25

/-- `Ch` of R87, the source's choose. -/
def ch (e f g : Word) : Word := (e &&& f) ^^^ (~~~e &&& g)

/-- `Maj` of R88, the source's majority, in the source's own form. -/
def maj (a b c : Word) : Word := (a &&& (b ||| c)) ||| (b &&& c)

end Sys2Proof.Machine
end

