-- ==== Sys2Proof/Machine/Compress.lean ====
section
/-! DEFINITION. The compression function of 41_compress.md: the message schedule (R92, R93), the rounds (R94 to R98), the feed-forward
(R99), `compress` as a whole (R101), and the rolling-window and round-serial datapaths an implementation may use instead (R103, R104). -/

namespace Sys2Proof.Machine

/-- The schedule load of R92: `W[t] = be32(B[4t], B[4t+1], B[4t+2], B[4t+3])` for `t = 0..15`. -/
def loadWords (b : Block) : List Word :=
  (List.finRange 16).map fun t => be32 b[4 * t.val] b[4 * t.val + 1] b[4 * t.val + 2] b[4 * t.val + 3]

/-- The next schedule word of R93 after the words `W[0..t-1]`, where `t` is their number:
`sig1(W[t-2]) + W[t-7] + sig0(W[t-15]) + W[t-16]`. -/
def nextWord (w : List Word) : Word :=
  let t := w.length
  sig1 (w.getD (t - 2) 0#32) + w.getD (t - 7) 0#32 + sig0 (w.getD (t - 15) 0#32) + w.getD (t - 16) 0#32

/-- The schedule expansion of R93: `n` further words, in increasing `t`. -/
def expandWords (w : List Word) : Nat → List Word
  | 0 => w
  | n + 1 => expandWords (w ++ [nextWord w]) n

/-- The message schedule `W[0..63]` of a block (R92, R93). -/
def schedule (b : Block) : List Word := expandWords (loadWords b) 48

/-- The working copy `a..h` of R94. -/
structure Working where
  a : Word
  b : Word
  c : Word
  d : Word
  e : Word
  f : Word
  g : Word
  h : Word
  deriving DecidableEq, Repr

/-- The working copy before round 0 (R94). -/
def loadWorking (h : Chain) : Working := ⟨h[0], h[1], h[2], h[3], h[4], h[5], h[6], h[7]⟩

/-- The first temporary of a round (R95). -/
def temp1 (k w : Word) (v : Working) : Word := v.h + sum1 v.e + ch v.e v.f v.g + k + w

/-- The second temporary of a round (R96). -/
def temp2 (v : Working) : Word := sum0 v.a + maj v.a v.b v.c

/-- The state update of a round (R97), all eight words from the old ones. -/
def roundStep (k w : Word) (v : Working) : Working :=
  ⟨temp1 k w v + temp2 v, v.a, v.b, v.c, v.d + temp1 k w v, v.e, v.f, v.g⟩

/-- The round loop of R98: round `t` uses `K[t]` and `W[t]`, in order. -/
def rounds (w : List Word) (v : Working) : Working :=
  (roundConstants.zip w).foldl (fun v kw => roundStep kw.1 kw.2 v) v

/-- The feed-forward of R99, word by word modulo 2^32. -/
def feedForward (h : Chain) (v : Working) : Chain :=
  #v[h[0] + v.a, h[1] + v.b, h[2] + v.c, h[3] + v.d, h[4] + v.e, h[5] + v.f, h[6] + v.g, h[7] + v.h]

/-- `compress(H, B)` of R101. -/
def compress (h : Chain) (b : Block) : Chain := feedForward h (rounds (schedule b) (loadWorking h))

/-- One shift of the rolling window of R103, `w[0..15]` holding `W[t-16..t-1]`: the new word goes in at `w[15]`. -/
def windowStep (w : List Word) : List Word :=
  w.tail ++ [sig1 (w.getD 14 0#32) + w.getD 9 0#32 + sig0 (w.getD 1 0#32) + w.getD 0 0#32]

/-- The words a rolling window hands to its rounds (R103): its oldest word, then the shifted window's, `n` times. -/
def windowWords (w : List Word) : Nat → List Word
  | 0 => []
  | n + 1 => w.getD 0 0#32 :: windowWords (windowStep w) n

/-- A round-serial datapath (R104): each round consumes the window's oldest word and shifts the window. -/
def serialRounds : List Word → List Word → Working → Working
  | [], _, v => v
  | k :: ks, w, v => serialRounds ks (windowStep w) (roundStep k (w.getD 0 0#32) v)

/-- `compress` as the round-serial, rolling-window implementation computes it (R103, R104). -/
def compressSerial (h : Chain) (b : Block) : Chain :=
  feedForward h (serialRounds roundConstants (loadWords b) (loadWorking h))

end Sys2Proof.Machine
end

