-- ==== Sys2Proof/Config.lean ====
section
/-! DEFINITION. What an implementation fixes and the spec leaves open: the one open parameter LAT (00_scope.md R6,
93_implementation_defined.md part 2). -/

namespace Sys2Proof

/-- LAT (70_reset_and_hazards.md R168): how many host steps may come between the acceptance of the `n`-th accepted command and its
completion. Finite, possibly zero, possibly different for each command, and nothing else is known of it: no body (log 1). -/
opaque Config.lat : Nat → Nat

end Sys2Proof
end

