-- ==== Sys2Proof/Syntax.lean ====
section
/-! DEFINITION. The six operations of the engine, one constructor for each row of spec/opcode_table.json. -/

namespace Sys2Proof

/-- An operation of the engine: the three commands of 30_encoding.md R52 and the three reads of R53. Each operand has exactly the width of
its field, so every term is an operation the spec has (log 17). -/
inductive Instr where
  /-- INIT (40_init_absorb.md R70). -/
  | init
  /-- ABSORB b, `b` the message byte (40_init_absorb.md R72). -/
  | absorb (b : Byte)
  /-- FINALIZE (42_finalize.md R110). -/
  | finalize
  /-- RDSTATUS (43_readout.md R127). -/
  | rdstatus
  /-- RDDIGEST i, `i` the digest word's index 0..7 (43_readout.md R128). -/
  | rddigest (i : BitVec 3)
  /-- RDHEX j, `j` the hex character's index 0..63 (43_readout.md R131). -/
  | rdhex (j : BitVec 6)
  deriving DecidableEq, Repr

end Sys2Proof
end

