-- ==== Sys2Proof/WellFormed.lean ====
section
/-! DEFINITION. Which operations, command words and read addresses are well formed: the ranges of 30_encoding.md R62 and R63, and the
reserved space of R56 to R58, each check on its own. -/

namespace Sys2Proof

/-- What a host presents to the engine's ports: a word on the command port (30_encoding.md R48) or an address on the read port (R49). -/
inductive Transaction where
  | cmd (w : CmdWord)
  | rd (a : Addr)
  deriving DecidableEq, Repr

/-- The operand of an operation lies in the range that R62 (byte 0..255) and R63 (`i` 0..7, `j` 0..63) give it. The fields' widths make
this hold of every term (`Sys2Proof.Laws.instr_wellFormed`). -/
def Instr.wellFormed : Instr → Bool
  | .init => true
  | .absorb b => b.toNat ≤ 255
  | .finalize => true
  | .rdstatus => true
  | .rddigest i => i.toNat ≤ 7
  | .rdhex j => j.toNat ≤ 63

/-- The opcode check of R56: `OP = w[15:8]` is 0x01, 0x02 or 0x03. -/
def CmdWord.opcodeDefined (w : CmdWord) : Bool :=
  let op := w.toNat / 256
  op = 1 || op = 2 || op = 3

/-- The reserved-operand check of R57: where `OP` is 0x01 or 0x03, `IMM8 = w[7:0]` is 0x00. -/
def CmdWord.operandDefined (w : CmdWord) : Bool :=
  let op := w.toNat / 256
  !(op = 1 || op = 3) || w.toNat % 256 = 0

/-- The reserved-address check of R58: neither 0x01 to 0x07 nor 0x10 to 0x3F. -/
def Addr.defined (a : Addr) : Bool :=
  let n := a.toNat
  !(1 ≤ n && n ≤ 7) && !(16 ≤ n && n ≤ 63)

/-- A transaction that spells an operation (R59): no check of R56 to R58 turns it away. -/
def Transaction.wellFormed : Transaction → Bool
  | .cmd w => CmdWord.opcodeDefined w && CmdWord.operandDefined w
  | .rd a => Addr.defined a

end Sys2Proof
end

