-- ==== Sys2Proof/Decode.lean ====
section
/-! DEFINITION. The two decoders of 30_encoding.md (R54 for command words, R55 for read addresses), total and rejecting by the name of the
fault, and the encoder written from the opcode maps R52 and R53. -/

namespace Sys2Proof

/-- The six fault codes of 60_exceptions.md R140, under the names its table gives them. -/
inductive FaultCode where
  /-- F1 RSVD_OPCODE: a command word with a reserved opcode. -/
  | rsvdOpcode
  /-- F2 RSVD_OPERAND: INIT or FINALIZE with a non-zero operand byte. -/
  | rsvdOperand
  /-- F3 USE_AFTER_FINALIZE: ABSORB or FINALIZE written while `FINALIZED = 1`. -/
  | useAfterFinalize
  /-- F4 DIGEST_NOT_VALID: a digest or hex read while `BUSY = 0` and `FINALIZED = 0`. -/
  | digestNotValid
  /-- F5 READ_WHILE_BUSY: a digest or hex read while `BUSY = 1`. -/
  | readWhileBusy
  /-- F6 RSVD_ADDRESS: a read of a reserved address. -/
  | rsvdAddress
  deriving DecidableEq, Repr

/-- The field `OP = w[15:8]` of a command word (R48). -/
def opField (w : CmdWord) : BitVec 8 := w.extractLsb' 8 8

/-- The field `IMM8 = w[7:0]` of a command word (R48), taken unchanged (R50). -/
def immField (w : CmdWord) : Byte := w.extractLsb' 0 8

/-- `decodeCmd` of R54, its tests in the spec's order. -/
def decodeCmd (w : CmdWord) : Except FaultCode Instr :=
  if opField w = 0x01#8 then (if immField w = 0x00#8 then .ok .init else .error .rsvdOperand)
  else if opField w = 0x02#8 then .ok (.absorb (immField w))
  else if opField w = 0x03#8 then (if immField w = 0x00#8 then .ok .finalize else .error .rsvdOperand)
  else .error .rsvdOpcode

/-- `decodeRd` of R55, its tests in the spec's order; the operands are `i = addr[2:0]` and `j = addr[5:0]` (R51). -/
def decodeRd (a : Addr) : Except FaultCode Instr :=
  if a = 0x00#7 then .ok .rdstatus
  else if a.extractLsb' 3 4 = 0b0001#4 then .ok (.rddigest (a.extractLsb' 0 3))
  else if a.extractLsb' 6 1 = 1#1 then .ok (.rdhex (a.extractLsb' 0 6))
  else .error .rsvdAddress

/-- The decoder of whatever a port is presented with (R54, R55); it reads no register (R61). -/
def decode : Transaction → Except FaultCode Instr
  | .cmd w => decodeCmd w
  | .rd a => decodeRd a

/-- The command word of ABSORB `b`: 0x0200 + b (R52). -/
def absorbWord (b : Byte) : CmdWord := 0x02#8 ++ b

/-- The read address of RDDIGEST `i`: 0x08 + i (R53). -/
def digestAddr (i : BitVec 3) : Addr := 0b0001#4 ++ i

/-- The read address of RDHEX `j`: 0x40 + j (R53). -/
def hexAddr (j : BitVec 6) : Addr := 1#1 ++ j

/-- The encoder: the one transaction each operation is (R52, R53, R62, R63). -/
def encode : Instr → Transaction
  | .init => .cmd 0x0100#16
  | .absorb b => .cmd (absorbWord b)
  | .finalize => .cmd 0x0300#16
  | .rdstatus => .rd 0x00#7
  | .rddigest i => .rd (digestAddr i)
  | .rdhex j => .rd (hexAddr j)

/-- The transaction a row of spec/opcode_table.json stands for, its bits numbered as the table numbers them: a read address is 7 bits in
one byte (so bit 7 must be 0), a command word is 16 bits (log 16). -/
def transactionOfTable (nbits w : Nat) : Option Transaction :=
  if nbits ≤ 8 then (if w < 128 then some (.rd (BitVec.ofNat 7 w)) else none)
  else if nbits ≤ 16 then (if w < 65536 then some (.cmd (BitVec.ofNat 16 w)) else none)
  else none

/-- What the decoder reads from a row of the opcode table with the bits `w`; none where it refuses. -/
def decodeTableWord (nbits w : Nat) : Option Instr :=
  match transactionOfTable nbits w with
  | some t =>
    match decode t with
    | .ok i => some i
    | .error _ => none
  | none => none

end Sys2Proof
end

