-- ==== Sys2Proof/Machine/State.lean ====
section
/-! DEFINITION. The state of the machine: the engine's record of 10_state.md R13, the host's and platform's side of the two ports, and the
model's own fields for LAT; the reasons a step can stop; the state after reset (R30). -/

namespace Sys2Proof.Machine

/-- The information a fault records: the command word or the read address of the forbidden request (60_exceptions.md R140). -/
inductive FaultInfo where
  | word (w : CmdWord)
  | addr (a : Addr)
  deriving DecidableEq, Repr

/-- The content of `FAULT` once it is set: the code (10_state.md R13) and the information recorded with it (60_exceptions.md R140). -/
structure FaultMark where
  code : FaultCode
  info : FaultInfo
  deriving DecidableEq, Repr

/-- One request of the host or the platform. -/
inductive Req where
  /-- A host line that is one transaction: a command write or a recorded read (30_encoding.md R66). -/
  | txn (t : Transaction)
  /-- The host's WAIT (30_encoding.md R68): reads of STATUS, not recorded, until one returns BUSY = 0 (log 10). -/
  | wait
  /-- The platform applies reset (70_reset_and_hazards.md R160, log 7). -/
  | reset
  deriving DecidableEq, Repr

/-- Why a step answers no next state. No instruction's meaning stops on every path. -/
inductive Fault where
  /-- Raised by `step` and by every meaning while `FAULT` is set: no host or engine step is enabled until reset (10_state.md R23,
  60_exceptions.md R145). Safe: the model has no behaviour where the chip's is unknown (log 3). -/
  | halted (m : FaultMark)
  /-- Raised by the completion of ABSORB and FINALIZE where `FILL` is over 63: the spec has no byte `BUF[FILL]` there. No run reaches such
  a state (10_state.md R31). Safe (log 8). -/
  | fillOutOfRange (fill : BitVec 7)
  /-- Raised by `step` where `BUSY = 1` and `PENDING` is none or a reserved word, which the engine never executes (40_init_absorb.md R78).
  No run reaches such a state (10_state.md R31). Safe (log 8). -/
  | nothingToComplete (pending : Option CmdWord)
  deriving DecidableEq, Repr

/-- Why an instruction has no meaning. -/
inductive Refusal where
  /-- An instruction with no meaning in the model. No arm of `exec` answers it. Safe. -/
  | notModelled (mnemonic : String)
  deriving DecidableEq, Repr

/-- The machine's state. `h` to `fault` are the record of 10_state.md R13; STATUS, DIGEST_W and HEX are views of it (R26, R29). -/
structure State where
  /-- `H[0..7]`, the running chaining value (R14). -/
  h : Chain
  /-- `BUF[0..63]`, the input buffer (R16). -/
  buf : Block
  /-- `FILL`, the number of message bytes in `BUF` (R17). -/
  fill : BitVec 7
  /-- `BITCNT`, the bits absorbed in completed blocks (R18). -/
  bitcnt : Count
  /-- `FINALIZED`, the phase bit (R19). -/
  finalized : Bool
  /-- `DIGEST[0..31]`, the digest register (R22). -/
  digest : Digest
  /-- `BUSY` (R20). -/
  busy : Bool
  /-- `PENDING`, the command word accepted and not yet completed (R21). -/
  pending : Option CmdWord
  /-- `FAULT`, the model's fault mark (R23, 60_exceptions.md R140). -/
  fault : Option FaultMark
  /-- The requests not yet performed, the next one first; a command write waits here while `BUSY = 1` (40_init_absorb.md R76, log 4). -/
  port : List Req
  /-- The values the recorded reads returned, oldest first (30_encoding.md R66, 70_reset_and_hazards.md R170). -/
  out : List Word
  /-- The model's own: how many host steps may still come before the engine completes (LAT, log 1). -/
  lat : Nat
  /-- The model's own: how many commands have been accepted, the argument of `Config.lat` (log 1). -/
  accepted : Nat
  deriving DecidableEq, Repr

/-- The machine right after reset: every element of R30 at the value R30 gives; `DIGEST`, to which R30 gives no value, holds zeros
(DESIGN CHOICE, log 5); the model's own fields as log 6 says (DESIGN CHOICE). -/
def State.reset : State where
  h := iv
  buf := Vector.replicate 64 0x00#8
  fill := 0#7
  bitcnt := 0#64
  finalized := false
  digest := Vector.replicate 32 0x00#8
  busy := false
  pending := none
  fault := none
  port := []
  out := []
  lat := 0
  accepted := 0

end Sys2Proof.Machine
end

