-- ==== Sys2Proof/Machine/Flags.lean ====
section
/-! DEFINITION. The engine's only flags: the two bits of STATUS (10_state.md R26). There are no condition codes; carries are discarded. -/

namespace Sys2Proof.Machine

/-- The value of STATUS (R26, R127): bit 0 is BUSY, bit 1 is FINALIZED, bits 31:2 are 0. -/
def statusWord (s : State) : Word := (BitVec.ofBool s.finalized ++ BitVec.ofBool s.busy).setWidth 32

/-- Bit 0 of a STATUS value, which WAIT tests (30_encoding.md R68). -/
def statusBusy (status : Word) : Bool := status.getLsbD 0

end Sys2Proof.Machine
end

