-- ==== Sys2Proof/Machine/Ops.lean ====
section
/-! DEFINITION. The shared operations over the state: raising a fault (60_exceptions.md R140), reset (70_reset_and_hazards.md R160),
acceptance and completion of a command (40_init_absorb.md R76, R77), and the read step (43_readout.md R125). -/

namespace Sys2Proof.Machine

/-- What a step or a meaning answers. -/
abbrev Result := Host.Outcome State Fault Refusal

/-- Raising a fault (60_exceptions.md R140): `FAULT` takes the code and the word or address of the request, and no other state changes.
The engine saves nothing else, switches no mode and jumps nowhere (R149). -/
def State.raise (c : FaultCode) (info : FaultInfo) (s : State) : State :=
  { s with fault := some ⟨c, info⟩ }

/-- Reset (70_reset_and_hazards.md R160, R162), the only way on after a fault (60_exceptions.md R150): every element of the engine at its
reset value, a command in flight discarded. A new run begins, so its record of read values is empty; the requests `rest` that come after
the reset stay, and the count of accepted commands runs on (log 7). -/
def State.applyReset (rest : List Req) (s : State) : State :=
  { State.reset with port := rest, accepted := s.accepted }

/-- The writes of an acceptance (40_init_absorb.md R76): `PENDING` and `BUSY`; the command's latency is drawn (log 1). -/
def State.accept (w : CmdWord) (s : State) : State :=
  { s with pending := some w, busy := true, lat := Config.lat s.accepted, accepted := s.accepted + 1 }

/-- The writes that end a completion (40_init_absorb.md R77): `PENDING <- none`, `BUSY <- 0`. -/
def State.complete (s : State) : State :=
  { s with pending := none, busy := false }

/-- The host's record of a value a read returned (30_encoding.md R66). -/
def State.record (v : Word) (s : State) : State :=
  { s with out := s.out ++ [v] }

/-- A host or platform request is taken from the front of `port`, `rest` remaining: one of the host steps that may precede the engine's
completion has gone (log 1). -/
def State.take (rest : List Req) (s : State) : State :=
  { s with port := rest, lat := s.lat - 1 }

/-- `EngineComplete` after its `Exec` (40_init_absorb.md R77): the command's whole effect and the end of the command are one step. -/
def finish : Result → Result
  | .next s => .next s.complete
  | .fault f => .fault f
  | .refused r => .refused r

/-- A command of word `w`: the step it takes part in (40_init_absorb.md R76 to R78, log 2).
Idle, it is accepted, or raises F3 if it needs the absorbing phase and `FINALIZED = 1` (R76); in flight, it completes with `effect` (R77);
while another command is in flight the port holds the write and nothing changes (R76). With `FAULT` set no step is enabled (R23). -/
def command (w : CmdWord) (absorbingOnly : Bool) (effect : State → Result) (s : State) : Result :=
  match s.fault with
  | some m => .fault (.halted m)
  | none =>
    if s.busy then
      if s.pending = some w then finish (effect s) else .next s
    else if absorbingOnly && s.finalized then .next (s.raise .useAfterFinalize (.word w))
    else .next (s.accept w)

/-- A read of address `a` (43_readout.md R125): F5 before F4 for a digest or hex read (60_exceptions.md R147), else the value is returned
to the host; the engine's state is unchanged. With `FAULT` set no step is enabled (10_state.md R23). -/
def hostRead (a : Addr) (needsDigest : Bool) (value : State → Word) (s : State) : Result :=
  match s.fault with
  | some m => .fault (.halted m)
  | none =>
    if needsDigest && s.busy then .next (s.raise .readWhileBusy (.addr a))
    else if needsDigest && !s.finalized then .next (s.raise .digestNotValid (.addr a))
    else .next (s.record (value s))

end Sys2Proof.Machine
end

