-- ==== Sys2Proof/Machine/Padding.lean ====
section
/-! DEFINITION. The padding of FINALIZE (42_finalize.md section 2): the length field (R112), the marker (R111), the one-block and the
two-block case (R113, R114), and the place of the length (R115). -/

namespace Sys2Proof.Machine

/-- The length field value of R112: `L = (BITCNT + 8 * FILL) mod 2^64`. -/
def lengthField (bitcnt : Count) (fill : BitVec 7) : Count := bitcnt + 8#64 * fill.setWidth 64

/-- The buffered message bytes and the marker 0x80 right after them (R111). -/
def marked (buf : Block) (n : Nat) : List Byte := buf.toList.take n ++ [0x80#8]

/-- The first padding block of the two-block case (R114). -/
def firstPadding (buf : Block) (n : Nat) : List Byte := marked buf n ++ zeros (63 - n)

/-- The final block (R113, R114, R115): in the two-block case it starts from "a fresh buffer". The test is on the fill before the marker
(90_conflicts.md C2). -/
def finalPadding (buf : Block) (n : Nat) (len : Count) : List Byte :=
  let p := if n ≥ 56 then [] else marked buf n
  p ++ zeros (56 - p.length) ++ be64bytes len

/-- The blocks FINALIZE compresses, in order: one when `n <= 55`, two when `n >= 56` (R110, R117). -/
def paddingBlocks (buf : Block) (n : Nat) (len : Count) : List Block :=
  if n ≥ 56 then [blockOf (firstPadding buf n), blockOf (finalPadding buf n len)]
  else [blockOf (finalPadding buf n len)]

end Sys2Proof.Machine
end

