-- ==== Sys2Proof/Machine/Commands.lean ====
section
/-! DEFINITION. The three commands: INIT (40_init_absorb.md R70), ABSORB (R72) and FINALIZE (42_finalize.md R110), each with its effect at
completion and its meaning over the shared acceptance and completion of Ops. -/

namespace Sys2Proof.Machine

/-- What INIT does at completion (R70). `DIGEST` is not written. -/
def initEffect (s : State) : Result :=
  .next { s with
    h := iv
    buf := Vector.replicate 64 0x00#8
    fill := 0#7
    bitcnt := 0#64
    finalized := false }

/-- What ABSORB `b` does at completion (R72): the byte goes to `BUF[FILL]`; the 64th byte compresses the block. -/
def absorbEffect (b : Byte) (s : State) : Result :=
  if hfill : s.fill.toNat < 64 then
    let buf := s.buf.set s.fill.toNat b
    if s.fill.toNat + 1 = 64 then
      .next { s with h := compress s.h buf, buf := buf, fill := 0#7, bitcnt := s.bitcnt + 512#64 }
    else .next { s with buf := buf, fill := s.fill + 1#7 }
  else .fault (.fillOutOfRange s.fill)

/-- The chaining value after FINALIZE's one or two compressions (R110). -/
def finalChain (s : State) : Chain :=
  (paddingBlocks s.buf s.fill.toNat (lengthField s.bitcnt s.fill)).foldl compress s.h

/-- What FINALIZE does at completion (R110): pad, compress, serialise the digest (R116), end the absorbing phase. `BUF`, `FILL` and
`BITCNT` are not written (R120). -/
def finalizeEffect (s : State) : Result :=
  if s.fill.toNat < 64 then
    .next { s with h := finalChain s, digest := serialize (finalChain s), finalized := true }
  else .fault (.fillOutOfRange s.fill)

/-- INIT, command word 0x0100: legal in both phases (R70). -/
def execInit (s : State) : Result := command 0x0100#16 false initEffect s

/-- ABSORB `b`, command word 0x0200 + b: F3 while `FINALIZED = 1` (R72). -/
def execAbsorb (b : Byte) (s : State) : Result := command (absorbWord b) true (absorbEffect b) s

/-- FINALIZE, command word 0x0300: F3 while `FINALIZED = 1` (R110). -/
def execFinalize (s : State) : Result := command 0x0300#16 true finalizeEffect s

end Sys2Proof.Machine
end

