-- ==== Sys2Proof/Machine/Reads.lean ====
section
/-! DEFINITION. The three reads: RDSTATUS (43_readout.md R127), RDDIGEST (R128) and RDHEX (R131), over the shared read step of Ops. -/

namespace Sys2Proof.Machine

/-- RDSTATUS, address 0x00: never faults (R127, 60_exceptions.md R143). -/
def execRdstatus (s : State) : Result := hostRead 0x00#7 false statusWord s

/-- RDDIGEST `i`, address 0x08 + i: digest word `i` (R128). -/
def execRddigest (i : BitVec 3) (s : State) : Result :=
  hostRead (digestAddr i) true (fun s => digestWord s.digest i) s

/-- RDHEX `j`, address 0x40 + j: hex character `j`, bits 31:8 zero (R131). -/
def execRdhex (j : BitVec 6) (s : State) : Result :=
  hostRead (hexAddr j) true (fun s => (hexchar s.digest j).setWidth 32) s

end Sys2Proof.Machine
end

