-- ==== Sys2Proof/Machine/Dispatch.lean ====
section
/-! DEFINITION. One arm for each operation of the engine, each a direct call of its meaning (the dispatch of 40_init_absorb.md R78 and
43_readout.md R125). -/

namespace Sys2Proof.Machine

def exec (i : Instr) (s : State) : Host.Outcome State Fault Refusal :=
  match i with
  | .init => Sys2Proof.Machine.execInit s
  | .absorb b => Sys2Proof.Machine.execAbsorb b s
  | .finalize => Sys2Proof.Machine.execFinalize s
  | .rdstatus => Sys2Proof.Machine.execRdstatus s
  | .rddigest j => Sys2Proof.Machine.execRddigest j s
  | .rdhex j => Sys2Proof.Machine.execRdhex j s

end Sys2Proof.Machine
end

