-- ==== Sys2Proof/Machine/Fetch.lean ====
section
/-! DEFINITION. Whose step comes next and what it is: the enabling conditions of `HostWrite`, `HostRead` and `EngineComplete`
(40_init_absorb.md R76, R77, 43_readout.md R125), their free interleaving (60_exceptions.md R148) by LAT, WAIT (30_encoding.md R68),
reset (70_reset_and_hazards.md R160) and the stop after a fault (60_exceptions.md R145). -/

namespace Sys2Proof.Machine

/-- What a step consists of. -/
inductive Fetched where
  /-- Run the instruction `i` at `s`. -/
  | run (i : Instr) (s : State)
  /-- A step without an instruction: a reserved word or address, a poll of WAIT, a reset, or nothing to do. -/
  | settle (s : State)
  /-- No step is enabled, or the spec gives none. -/
  | stop (f : Fault)
  deriving DecidableEq, Repr

/-- The information a faulting transaction leaves (60_exceptions.md R140). -/
def transactionInfo : Transaction → FaultInfo
  | .cmd w => .word w
  | .rd a => .addr a

/-- A request that needs `BUSY = 0`: the command port takes no word while a command is in flight (40_init_absorb.md R76). -/
def isCommandWrite : Req → Bool
  | .txn (.cmd _) => true
  | _ => false

/-- One read of WAIT (30_encoding.md R68), `s` the state with the WAIT taken: it is over once the read shows BUSY = 0, else it goes on. -/
def pollWait (s : State) : State :=
  if statusBusy (statusWord s) then { s with port := .wait :: s.port } else s

/-- A host or platform step, `s` the state with the request taken. A word or address that spells no operation raises its fault
(30_encoding.md R54 to R58). -/
def requestMove (r : Req) (s : State) : Fetched :=
  match r with
  | .txn t =>
    match decode t with
    | .ok i => .run i s
    | .error c => .settle (s.raise c (transactionInfo t))
  | .wait => .settle (pollWait s)
  | .reset => .settle (s.applyReset s.port)

/-- The engine's step (40_init_absorb.md R77): the decoded `PENDING` (log 8 for the states no run reaches). -/
def engineMove (s : State) : Fetched :=
  match s.pending with
  | some w =>
    match decodeCmd w with
    | .ok i => .run i s
    | .error _ => .stop (.nothingToComplete (some w))
  | none => .stop (.nothingToComplete none)

/-- The requests after the first reset, if there is one: the lines before it belong to the run that failed and are never performed
(60_exceptions.md R145, log 7). -/
def afterReset : List Req → Option (List Req)
  | [] => none
  | .reset :: rest => some rest
  | .txn _ :: rest => afterReset rest
  | .wait :: rest => afterReset rest

/-- Is a line of the present run unperformed? A reset is no line (30_encoding.md R66) and begins a new run (70_reset_and_hazards.md R160),
so the lines after it are the next run's. -/
def lineLeft : List Req → Bool
  | [] => false
  | .reset :: _ => false
  | .txn _ :: _ => true
  | .wait :: _ => true

/-- The next step. After a fault only reset is enabled (R145). With nothing requested and nothing in flight the engine holds its state
(60_exceptions.md R156). While `BUSY = 1` the engine completes if the port holds a write or the latency has gone, else the host's step
comes first (R148, log 1). -/
def fetch (s : State) : Fetched :=
  match s.fault with
  | some m =>
    match afterReset s.port with
    | some rest => .settle (s.applyReset rest)
    | none => .stop (.halted m)
  | none =>
    match s.port with
    | [] => if s.busy then engineMove s else .settle s
    | r :: rest =>
      if s.busy && (isCommandWrite r || s.lat == 0) then engineMove s else requestMove r (s.take rest)

/-- `t` placed in front of the host's requests so that it is the very next thing that runs: no fault stands, the command port is free for
a command, and the engine does not complete before a read (log 4). -/
def placeNext (t : Transaction) (s : State) : State :=
  match t with
  | .cmd _ => { s with fault := none, busy := false, pending := none, port := .txn t :: s.port }
  | .rd _ => { s with fault := none, lat := s.lat + 1, port := .txn t :: s.port }

end Sys2Proof.Machine
end

