-- ==== Sys2Proof/Machine/Step.lean ====
section
/-! DEFINITION. One step of the machine (00_scope.md R12, 60_exceptions.md R148), and the placing of one instruction to run next. -/

namespace Sys2Proof.Machine

/-- What a step answers, once `fetch` has named it. -/
def answer : Fetched → Result
  | .run i s => exec i s
  | .settle s => .next s
  | .stop f => .fault f

/-- One step: what `fetch` names. -/
def step (s : State) : Host.Outcome State Fault Refusal := answer (fetch s)

/-- `s` with the opcode-table word `w` of `nbits` bits as the host's next request; `s` itself where `w` is no transaction. -/
def State.withFetchWord (s : State) (nbits w : Nat) : State :=
  match transactionOfTable nbits w with
  | some t => placeNext t s
  | none => s

end Sys2Proof.Machine
end

