-- ==== Sys2Proof/Machine/Program.lean ====
section
/-! DEFINITION. Host programs as lines (30_encoding.md R66) and what each line puts on the ports: one transaction for an operation
(R62, R63) or a raw form (R64), and the expansions of the pseudo-instructions (R67 to R69). -/

namespace Sys2Proof.Machine

/-- A line of a host program, its operands read as numbers and bytes. -/
inductive Line where
  | init
  | absorb (b : Nat)
  | finalize
  | rdstatus
  | rddigest (i : Nat)
  | rdhex (j : Nat)
  /-- `.CMD <word16>` (R64). -/
  | rawCmd (w : Nat)
  /-- `.RD <addr7>` (R64). -/
  | rawRd (a : Nat)
  /-- `ABSORBS "<text>"` and `ABSORBX <hex>` (R67), the bytes they stand for. -/
  | absorbs (m : List Byte)
  /-- `WAIT` (R68). -/
  | wait
  /-- `HASH "<text>"` and `HASHX <hex>` (R69), the bytes they stand for. -/
  | hash (m : List Byte)
  /-- `RDDIGESTALL` (R69). -/
  | rddigestall
  /-- `RDHEXALL` (R69). -/
  | rdhexall
  deriving DecidableEq, Repr

/-- The request of one operation. -/
def opReq (i : Instr) : Req := .txn (encode i)

/-- One ABSORB for each byte, in order (R67). -/
def absorbReqs (m : List Byte) : List Req := m.map fun b => opReq (.absorb b)

/-- The requests of a line; none is an assembly error: an operand out of its range produces no transaction (R62, R63). -/
def Line.expand : Line → Option (List Req)
  | .init => some [opReq .init]
  | .absorb b => if b < 256 then some [opReq (.absorb (BitVec.ofNat 8 b))] else none
  | .finalize => some [opReq .finalize]
  | .rdstatus => some [opReq .rdstatus]
  | .rddigest i => if i < 8 then some [opReq (.rddigest (BitVec.ofNat 3 i))] else none
  | .rdhex j => if j < 64 then some [opReq (.rdhex (BitVec.ofNat 6 j))] else none
  | .rawCmd w => if w < 65536 then some [.txn (.cmd (BitVec.ofNat 16 w))] else none
  | .rawRd a => if a < 128 then some [.txn (.rd (BitVec.ofNat 7 a))] else none
  | .absorbs m => some (absorbReqs m)
  | .wait => some [.wait]
  | .hash m => some (opReq .init :: (absorbReqs m ++ [opReq .finalize, .wait]))
  | .rddigestall => some ((List.range 8).map fun i => opReq (.rddigest (BitVec.ofNat 3 i)))
  | .rdhexall => some ((List.range 64).map fun j => opReq (.rdhex (BitVec.ofNat 6 j)))

/-- The requests of a program, line after line (R66). -/
def expandAll : List Line → Option (List Req)
  | [] => some []
  | l :: ls =>
    match l.expand, expandAll ls with
    | some r, some rs => some (r ++ rs)
    | _, _ => none

end Sys2Proof.Machine
end

