-- ==== Sys2Proof/Machine/Assembler.lean ====
section
/-! DEFINITION. The assembler syntax of 30_encoding.md section 6 (R62 to R69): a program's text read line by line. The choices the rules
leave open are in log 13. -/

namespace Sys2Proof.Machine

/-- Blanks inside a line. -/
def isBlank (c : Char) : Bool := c.toNat = 32 || c.toNat = 9 || c.toNat = 13

/-- Nothing but blanks, or a comment, to the end of the line (R65). -/
def lineEnds (cs : List Char) : Bool :=
  match cs.dropWhile isBlank with
  | [] => true
  | c :: _ => c = ';'

/-- The value of a hex digit of either case. -/
def hexValue (c : Char) : Option Nat :=
  let n := c.toNat
  if 48 ≤ n && n ≤ 57 then some (n - 48)
  else if 97 ≤ n && n ≤ 102 then some (n - 87)
  else if 65 ≤ n && n ≤ 70 then some (n - 55)
  else none

/-- The value of a decimal digit. -/
def decValue (c : Char) : Option Nat :=
  let n := c.toNat
  if 48 ≤ n && n ≤ 57 then some (n - 48) else none

/-- The digits at the front, as a number in `base`, with whether there was one and what follows. Any number of digits is read, leading
zeros among them (DESIGN CHOICE, log 13). -/
def digits (base : Nat) (value : Char → Option Nat) : Bool → Nat → List Char → Option (Nat × List Char)
  | seen, acc, [] => if seen then some (acc, []) else none
  | seen, acc, c :: cs =>
    match value c with
    | some v => digits base value true (base * acc + v) cs
    | none => if seen then some (acc, c :: cs) else none

/-- A number, in decimal or as `0x..`: the forms R62 gives for `<byte>`. That the operands of RDDIGEST, RDHEX, `.CMD` and `.RD` (R63, R64)
are written in the same two forms is the model's (DESIGN CHOICE, log 13). -/
def number (cs : List Char) : Option (Nat × List Char) :=
  match cs with
  | '0' :: 'x' :: rest => digits 16 hexValue false 0 rest
  | _ => digits 10 decValue false 0 cs

/-- A `<byte>`: a number, or a character literal of a printable ASCII character (R62). -/
def byteOperand (cs : List Char) : Option (Nat × List Char) :=
  match cs with
  | '\'' :: c :: '\'' :: rest => if 32 ≤ c.toNat && c.toNat ≤ 126 then some (c.toNat, rest) else none
  | _ => number cs

/-- The bytes of a text up to its closing quote, and what follows (R67): the ASCII codes of its characters, `\xHH` for the byte 0xHH, a
backslash before a backslash or a quote for that character. -/
def textBytes : List Char → Option (List Byte × List Char)
  | [] => none
  | '"' :: rest => some ([], rest)
  | '\\' :: 'x' :: a :: b :: rest =>
    match hexValue a, hexValue b, textBytes rest with
    | some u, some v, some (bs, after) => some (BitVec.ofNat 8 (16 * u + v) :: bs, after)
    | _, _, _ => none
  | '\\' :: c :: rest =>
    if c = '\\' || c = '"' then
      match textBytes rest with
      | some (bs, after) => some (BitVec.ofNat 8 c.toNat :: bs, after)
      | none => none
    else none
  | c :: rest =>
    if c.toNat < 128 then
      match textBytes rest with
      | some (bs, after) => some (BitVec.ofNat 8 c.toNat :: bs, after)
      | none => none
    else none

/-- A `"<text>"` operand. -/
def textOperand (cs : List Char) : Option (List Byte × List Char) :=
  match cs with
  | '"' :: rest => textBytes rest
  | _ => none

/-- A `<hex>` operand: pairs of hex digits, first pair first (R67); a digit left over is an error, none at all is the empty string. -/
def hexBytes : List Char → Option (List Byte × List Char)
  | [] => some ([], [])
  | [a] => if (hexValue a).isSome then none else some ([], [a])
  | a :: b :: rest =>
    match hexValue a, hexValue b with
    | some u, some v =>
      match hexBytes rest with
      | some (bs, after) => some (BitVec.ofNat 8 (16 * u + v) :: bs, after)
      | none => none
    | some _, none => none
    | none, _ => some ([], a :: b :: rest)

/-- A line with no operand. -/
def plain (l : Line) (cs : List Char) : Option Line := if lineEnds cs then some l else none

/-- A line with an operand read by `read`. -/
def withOperand {α : Type} (read : List Char → Option (α × List Char)) (mk : α → Line) (cs : List Char) : Option Line :=
  match read (cs.dropWhile isBlank) with
  | some (v, rest) => if lineEnds rest then some (mk v) else none
  | none => none

/-- The line of a mnemonic and the text after it (R62 to R64, R67 to R69); mnemonics are upper case (R65). The form of the operands of
RDDIGEST, RDHEX, `.CMD` and `.RD` is `number`'s (DESIGN CHOICE, log 13). -/
def lineOf (mnemonic rest : List Char) : Option Line :=
  if mnemonic = ['I', 'N', 'I', 'T'] then plain .init rest
  else if mnemonic = ['A', 'B', 'S', 'O', 'R', 'B'] then withOperand byteOperand .absorb rest
  else if mnemonic = ['F', 'I', 'N', 'A', 'L', 'I', 'Z', 'E'] then plain .finalize rest
  else if mnemonic = ['R', 'D', 'S', 'T', 'A', 'T', 'U', 'S'] then plain .rdstatus rest
  else if mnemonic = ['R', 'D', 'D', 'I', 'G', 'E', 'S', 'T'] then withOperand number .rddigest rest
  else if mnemonic = ['R', 'D', 'H', 'E', 'X'] then withOperand number .rdhex rest
  else if mnemonic = ['.', 'C', 'M', 'D'] then withOperand number .rawCmd rest
  else if mnemonic = ['.', 'R', 'D'] then withOperand number .rawRd rest
  else if mnemonic = ['A', 'B', 'S', 'O', 'R', 'B', 'S'] then withOperand textOperand .absorbs rest
  else if mnemonic = ['A', 'B', 'S', 'O', 'R', 'B', 'X'] then withOperand hexBytes .absorbs rest
  else if mnemonic = ['W', 'A', 'I', 'T'] then plain .wait rest
  else if mnemonic = ['H', 'A', 'S', 'H'] then withOperand textOperand .hash rest
  else if mnemonic = ['H', 'A', 'S', 'H', 'X'] then withOperand hexBytes .hash rest
  else if mnemonic = ['R', 'D', 'D', 'I', 'G', 'E', 'S', 'T', 'A', 'L', 'L'] then plain .rddigestall rest
  else if mnemonic = ['R', 'D', 'H', 'E', 'X', 'A', 'L', 'L'] then plain .rdhexall rest
  else none

/-- A character that can stand in a mnemonic: it ends at a blank or a comment. -/
def inMnemonic (c : Char) : Bool := !isBlank c && c != ';'

/-- One line of text: no line for a blank or comment line (R65), none where it is no line of the language. -/
def parseLine (cs : List Char) : Option (List Line) :=
  if lineEnds cs then some []
  else
    let t := cs.dropWhile isBlank
    match lineOf (t.takeWhile inMnemonic) (t.dropWhile inMnemonic) with
    | some l => some [l]
    | none => none

/-- The lines of a program's text, one operation per line (R65); none where a line is no line of the language. -/
def parseLines : List (List Char) → Option (List Line)
  | [] => some []
  | cs :: rest =>
    match parseLine cs, parseLines rest with
    | some l, some ls => some (l ++ ls)
    | _, _ => none

/-- The text cut at its line ends, `line` the characters of the present line in reverse. -/
def cutLines (line : List Char) : List Char → List (List Char)
  | [] => [line.reverse]
  | c :: cs => if c.toNat = 10 then line.reverse :: cutLines [] cs else cutLines (c :: line) cs

/-- The requests a program's text stands for (R66). -/
def assemble (text : List Char) : Option (List Req) :=
  match parseLines (cutLines [] text) with
  | some ls => expandAll ls
  | none => none

end Sys2Proof.Machine
end

