-- ==== Sys2Proof/Machine/Instances.lean ====
section
/-! DEFINITION. Several engine instances (20_memory.md R43, 60_exceptions.md R155): independent blocks, each with its own host port. -/

namespace Sys2Proof.Machine

/-- A system of instances after reset, each at its own place in the sequence that `Config.lat` gives: LAT may differ between instances
(93_implementation_defined.md part 2), so a claim about several instances is made for every `starts` (log 12). -/
def engines (starts : List Nat) : List State := starts.map fun n => { State.reset with accepted := n }

/-- A step of instance `k` of a system of engines. Which instance moves is left to the caller: the spec gives no order between the steps
of two instances (R43, log 12). -/
def stepInstance (k : Nat) (system : List State) : Host.Outcome (List State) Fault Refusal :=
  match system[k]? with
  | none => .next system
  | some s =>
    match step s with
    | .next s' => .next (system.set k s')
    | .fault f => .fault f
    | .refused r => .refused r

end Sys2Proof.Machine
end

