-- ==== Sys2Proof/Machine/Message.lean ====
section
/-! DEFINITION. Whole messages: performing operations one after another on an engine that is idle (40_init_absorb.md R74), the padded
message and its blocks (42_finalize.md R118), and the hash they define. -/

namespace Sys2Proof.Machine

/-- One operation performed to its end on an idle engine: a command's acceptance and then its completion (40_init_absorb.md R76, R77), or
a read. -/
def perform (i : Instr) (s : State) : Result :=
  match exec i s with
  | .next t => if t.busy then exec i t else .next t
  | .fault f => .fault f
  | .refused r => .refused r

/-- Operations performed in order, each to its end, up to the first stop. -/
def performAll : List Instr → State → Result
  | [], s => .next s
  | i :: is, s =>
    match perform i s with
    | .next t => performAll is t
    | .fault f => .fault f
    | .refused r => .refused r

/-- The source's `absorb(m)`: one ABSORB for each byte, in order (R74). -/
def absorbs (m : List Byte) : List Instr := m.map Instr.absorb

/-- The operations that hash `m`: INIT, its bytes, FINALIZE (70_reset_and_hazards.md R163). -/
def hashOperations (m : List Byte) : List Instr := .init :: (absorbs m ++ [.finalize])

/-- The zero bytes between the marker and the length: the least `k` with `len(m) + 1 + k + 8` a multiple of 64 (R118). -/
def paddingZeros (len : Nat) : Nat := (64 - (len + 9) % 64) % 64

/-- The padded message of R118: `m ++ [0x80] ++ zeros(k) ++ be64bytes(8 * len(m) mod 2^64)`. -/
def paddedMessage (m : List Byte) : List Byte :=
  m ++ [0x80#8] ++ zeros (paddingZeros m.length) ++ be64bytes (BitVec.ofNat 64 (8 * m.length))

/-- The whole 64-byte blocks of a byte sequence, in order; bytes after the last whole block are left out. -/
def wholeBlocks (p : List Byte) : List Block :=
  (List.range (p.length / 64)).map fun j => blockOf (p.drop (64 * j))

/-- The digest R118 defines for a message: the padded message's blocks compressed in order from IV, serialised. -/
def messageDigest (m : List Byte) : Digest := serialize ((wholeBlocks (paddedMessage m)).foldl compress iv)

/-- The source's `encodeHex` (43_readout.md R132): the 64 characters HEX_0 to HEX_63 in order. -/
def encodeHex (d : Digest) : List Byte := (List.finRange 64).map fun j => hexchar d (BitVec.ofFin j)

end Sys2Proof.Machine
end

