-- ==== Sys2Proof/Safety.lean ====
section
/-! DEFINITION. What claims are stated in: the invariants of 10_state.md R31, the three ends of a run (70_reset_and_hazards.md R170), and
the agreement of two states up to what the host cannot observe (10_state.md R16, R32, R33). -/

namespace Sys2Proof.Machine

/-- `PENDING` is none or a command that the checks of acceptance let through and that is still allowed (40_init_absorb.md R78, R79). -/
def pendingAllowed (finalized : Bool) : Option CmdWord → Bool
  | none => true
  | some w =>
    match decodeCmd w with
    | .ok .init => true
    | .ok _ => !finalized
    | .error _ => false

/-- The invariants of 10_state.md R31, with R78 and R79 for `PENDING` and R35 for the value `DIGEST` holds. -/
structure Inv (s : State) : Prop where
  /-- `0 <= FILL <= 63`. -/
  fill_le : s.fill.toNat ≤ 63
  /-- `BUSY = 0` if and only if `PENDING = none`. -/
  busy_pending : s.busy = s.pending.isSome
  /-- `BITCNT` is a multiple of 512. -/
  bitcnt_blocks : s.bitcnt.toNat % 512 = 0
  /-- While `FINALIZED = 1`, `DIGEST` holds the value of the FINALIZE that set it: the serialised `H` it left. -/
  digest_final : s.finalized = true → s.digest = serialize s.h
  /-- What is in flight may complete. -/
  pending_allowed : pendingAllowed s.finalized s.pending = true

/-- How a run stands (70_reset_and_hazards.md R170). -/
inductive RunEnd where
  /-- Every line of the run performed, every WAIT returned, `FAULT = none`. -/
  | succeeds
  /-- A step has raised a fault. -/
  | fails
  /-- A line of the run is unperformed. -/
  | notEnded
  deriving DecidableEq, Repr

/-- The end of the run a state is in (R170): the present run's lines are those before the next reset. -/
def runEnd (s : State) : RunEnd :=
  match s.fault with
  | some _ => .fails
  | none => if lineLeft s.port then .notEnded else .succeeds

/-- Two outcomes of the same kind whose next states are related by `rel`. -/
def OutcomesAgree (rel : State → State → Prop) : Result → Result → Prop
  | .next s, .next t => rel s t
  | .fault f, .fault g => f = g
  | .refused r, .refused q => r = q
  | _, _ => False

/-- Two states that differ at most in `H`, `BUF`, `FILL` and `BITCNT` (R32). -/
def SameButHashState (s t : State) : Prop :=
  t = { s with h := t.h, buf := t.buf, fill := t.fill, bitcnt := t.bitcnt }

/-- Two states that differ at most in the bytes of `BUF` at index `FILL` and above (R16). -/
def SameButBufferTail (s t : State) : Prop :=
  t = { s with buf := t.buf } ∧ ∀ (k : Nat) (hk : k < 64), k < s.fill.toNat → s.buf[k] = t.buf[k]

end Sys2Proof.Machine
end

