-- ==== Sys2Proof/Certificates/Slice0/Obligations.lean ====
section
/-! DEFINITION. The statements about the engine, from the numbered rules of spec/. Each docstring names the rules it formalises; where a
clause rests on a choice of the model it names the log entry. -/

open Sys2Proof Sys2Proof.Machine

/-! ### Encoding (30_encoding.md) -/

/-- Decoding the encoding of any operation gives it back, with every operand at every value (R52 to R55). -/
def Obligations.DecodeInvertsEncode : Prop := ∀ i : Instr, decode (encode i) = .ok i

/-- Every transaction that decodes is the one encoding of what it decodes to: each word and address has one meaning (R54, R55). -/
def Obligations.EncodeInvertsDecode : Prop := ∀ (t : Transaction) (i : Instr), decode t = .ok i → encode i = t

/-- The decoders reject exactly the reserved space, by the fault it has: F1 for every reserved opcode (R56), F2 for a non-zero operand byte
on INIT or FINALIZE (R57), F6 for a reserved address (R58). -/
def Obligations.DecodersRejectExactlyReservedSpace : Prop :=
  (∀ w : CmdWord, ((∃ i, decodeCmd w = .ok i) ↔ CmdWord.opcodeDefined w = true ∧ CmdWord.operandDefined w = true) ∧
    (decodeCmd w = .error .rsvdOpcode ↔ CmdWord.opcodeDefined w = false) ∧
    (decodeCmd w = .error .rsvdOperand ↔ CmdWord.opcodeDefined w = true ∧ CmdWord.operandDefined w = false)) ∧
  (∀ a : Addr, ((∃ i, decodeRd a = .ok i) ↔ Addr.defined a = true) ∧
    (decodeRd a = .error .rsvdAddress ↔ Addr.defined a = false))

/-- A word of each operation, written out from R48 to R53, decodes to the operation. -/
def Obligations.SampleWordsDecode : Prop :=
  decodeCmd 0b0000000100000000#16 = .ok .init ∧
  decodeCmd 0b0000001001100001#16 = .ok (.absorb 0x61#8) ∧
  decodeCmd 0b0000001100000000#16 = .ok .finalize ∧
  decodeRd 0b0000000#7 = .ok .rdstatus ∧
  decodeRd 0b0001101#7 = .ok (.rddigest 5#3) ∧
  decodeRd 0b1111110#7 = .ok (.rdhex 62#6)

/-! ### The word functions and constants (41_compress.md) -/

/-- R80: `rotr(x, n)` is the shift formula, and the bit at position `k` of `x` moves to position `(k - n) mod 32`. -/
def Obligations.RotateMovesEveryBit : Prop :=
  ∀ (x : Word) (n : Nat), 0 < n → n < 32 →
    (rotr x n).toNat = (x.toNat / 2 ^ n ||| x.toNat * 2 ^ (32 - n) % 2 ^ 32) ∧
    ∀ k, k < 32 → (rotr x n).getLsbD ((k + 32 - n) % 32) = x.getLsbD k

/-- R83 to R86: the four sigma functions, bit by bit: each result bit is the exclusive or of the three bits that the rotations and the
shift bring there, a shift bringing in zeros; and the examples of the rules. -/
def Obligations.SigmaFunctionsBitwise : Prop :=
  (∀ (x : Word) (k : Nat), k < 32 →
    (sig0 x).getLsbD k = (x.getLsbD ((k + 7) % 32) ^^ (x.getLsbD ((k + 18) % 32) ^^ (decide (k + 3 ≤ 31) && x.getLsbD (k + 3)))) ∧
    (sig1 x).getLsbD k = (x.getLsbD ((k + 17) % 32) ^^ (x.getLsbD ((k + 19) % 32) ^^ (decide (k + 10 ≤ 31) && x.getLsbD (k + 10)))) ∧
    (sum0 x).getLsbD k = (x.getLsbD ((k + 2) % 32) ^^ (x.getLsbD ((k + 13) % 32) ^^ x.getLsbD ((k + 22) % 32))) ∧
    (sum1 x).getLsbD k = (x.getLsbD ((k + 6) % 32) ^^ (x.getLsbD ((k + 11) % 32) ^^ x.getLsbD ((k + 25) % 32)))) ∧
  sig0 0x80000000#32 = 0x11002000#32 ∧ sig1 0x80000000#32 = 0x00205000#32 ∧
  sum0 0x6a09e667#32 = 0xce20b47e#32 ∧ sum1 0x510e527f#32 = 0x3587272b#32

/-- R87 and R88: `Ch` takes the bit of `f` where `e` is 1 and of `g` where it is 0; `Maj` is 1 exactly when at least two bits are; and the
examples of the rules. -/
def Obligations.ChooseAndMajorityBitwise : Prop :=
  (∀ (x y z : Word) (k : Nat), k < 32 →
    (ch x y z).getLsbD k = (if x.getLsbD k = true then y.getLsbD k else z.getLsbD k) ∧
    ((maj x y z).getLsbD k = true ↔ 2 ≤ (x.getLsbD k).toNat + (y.getLsbD k).toNat + (z.getLsbD k).toNat)) ∧
  (∀ x y z : Word, ch x y z = (x &&& y) ^^^ (~~~x &&& z) ∧ maj x y z = (x &&& (y ||| z)) ||| (y &&& z)) ∧
  ch 0x510e527f#32 0x9b05688c#32 0x1f83d9ab#32 = 0x1f85c98c#32 ∧
  maj 0x6a09e667#32 0xbb67ae85#32 0x3c6ef372#32 = 0x3a6fe667#32

/-- R90 and R91: `K` has 64 entries, and `K[t]` is the first 32 bits of the fractional part of the cube root of the `(t+1)`-th prime: with `c`
the root's whole part, `c * 2^32 + K[t]` is the cube root of `p * 2^96` rounded down; `IV[i]` likewise from the square root of the
`(i+1)`-th prime. -/
def Obligations.ConstantsAreRootsOfPrimes : Prop :=
  (roundConstants.length = 64 ∧
    ∀ t, t < 64 → ∃ c : Nat, c ^ 3 ≤ Nat.nth Nat.Prime t ∧ Nat.nth Nat.Prime t < (c + 1) ^ 3 ∧
      (c * 2 ^ 32 + (roundConstants.getD t 0#32).toNat) ^ 3 ≤ Nat.nth Nat.Prime t * 2 ^ 96 ∧
      Nat.nth Nat.Prime t * 2 ^ 96 < (c * 2 ^ 32 + (roundConstants.getD t 0#32).toNat + 1) ^ 3) ∧
  ∀ i : Fin 8, ∃ c : Nat, c ^ 2 ≤ Nat.nth Nat.Prime i.val ∧ Nat.nth Nat.Prime i.val < (c + 1) ^ 2 ∧
    (c * 2 ^ 32 + iv[i].toNat) ^ 2 ≤ Nat.nth Nat.Prime i.val * 2 ^ 64 ∧
    Nat.nth Nat.Prime i.val * 2 ^ 64 < (c * 2 ^ 32 + iv[i].toNat + 1) ^ 2

/-! ### The compression function (41_compress.md) -/

/-- R92 and R93: the schedule has 64 words; the first sixteen are the block's big-endian words, and each later one is the recurrence's; and
the example of R93. -/
def Obligations.ScheduleFollowsRecurrence : Prop :=
  (∀ b : Block, (schedule b).length = 64 ∧
    (∀ t : Fin 16, (schedule b).getD t.val 0#32 = be32 b[4 * t.val] b[4 * t.val + 1] b[4 * t.val + 2] b[4 * t.val + 3]) ∧
    (∀ t, 16 ≤ t → t < 64 → (schedule b).getD t 0#32 =
      sig1 ((schedule b).getD (t - 2) 0#32) + (schedule b).getD (t - 7) 0#32 +
      sig0 ((schedule b).getD (t - 15) 0#32) + (schedule b).getD (t - 16) 0#32)) ∧
  (schedule (blockOf ([0x61#8, 0x62#8, 0x63#8, 0x80#8] ++ zeros 59 ++ [0x18#8]))).getD 16 0#32 = 0x61626380#32 ∧
  (schedule (blockOf ([0x61#8, 0x62#8, 0x63#8, 0x80#8] ++ zeros 59 ++ [0x18#8]))).getD 17 0#32 = 0x000f0000#32

/-- R94 to R97: the working copy is `H`, and a round computes all eight new values from the old ones with `T1` and `T2`; and the example of
R97, round 0 of "abc". -/
def Obligations.RoundUpdatesWorkingCopy : Prop :=
  (∀ x : Chain, loadWorking x = ⟨x[0], x[1], x[2], x[3], x[4], x[5], x[6], x[7]⟩) ∧
  (∀ k w a b c d e f g h : Word, roundStep k w ⟨a, b, c, d, e, f, g, h⟩ =
    ⟨(h + sum1 e + ch e f g + k + w) + (sum0 a + maj a b c), a, b, c, d + (h + sum1 e + ch e f g + k + w), e, f, g⟩) ∧
  (roundStep (roundConstants.getD 0 0#32) 0x61626380#32 (loadWorking iv)).a = 0x5d6aebcd#32 ∧
  (roundStep (roundConstants.getD 0 0#32) 0x61626380#32 (loadWorking iv)).e = 0xfa2a4622#32

/-- R98, R99 and R101: the rounds are exactly 64, round `t` with `K[t]` and `W[t]`, each from what the round before left; the compression adds
the working copy they end with to the old `H`, word by word modulo 2^32. -/
def Obligations.CompressRunsSixtyFourRounds : Prop :=
  ∀ (h : Chain) (b : Block), ∃ v : Nat → Working,
    v 0 = loadWorking h ∧
    (∀ t, t < 64 → v (t + 1) = roundStep (roundConstants.getD t 0#32) ((schedule b).getD t 0#32) (v t)) ∧
    (compress h b).toList.map BitVec.toNat =
      [(h[0].toNat + (v 64).a.toNat) % 2 ^ 32, (h[1].toNat + (v 64).b.toNat) % 2 ^ 32,
       (h[2].toNat + (v 64).c.toNat) % 2 ^ 32, (h[3].toNat + (v 64).d.toNat) % 2 ^ 32,
       (h[4].toNat + (v 64).e.toNat) % 2 ^ 32, (h[5].toNat + (v 64).f.toNat) % 2 ^ 32,
       (h[6].toNat + (v 64).g.toNat) % 2 ^ 32, (h[7].toNat + (v 64).h.toNat) % 2 ^ 32]

/-- The implementation freedom of R103 and R104: a rolling 16-word window hands out the words of the schedule, and the round-serial datapath
over it computes `compress` (R101). The spec marks R103 as derived and R104 as its decision. -/
def Obligations.SerialDatapathRefinesCompress : Prop :=
  (∀ b : Block, windowWords (loadWords b) 64 = schedule b) ∧
  ∀ (h : Chain) (b : Block), compressSerial h b = compress h b

/-! ### Padding and the digest (42_finalize.md) -/

/-- R111, R114 and R115, with the one-block case the spec derives in R113: for each fill, the blocks FINALIZE compresses, every one exactly 64
bytes, with one marker right after the buffered bytes; the length in the last eight bytes, most significant first; and the examples of
R115. -/
def Obligations.PaddingBlocksByFill : Prop :=
  (∀ (buf : Block) (n : Nat) (len : Count),
    (n ≤ 55 →
      (buf.toList.take n ++ [0x80#8] ++ zeros (55 - n) ++ be64bytes len).length = 64 ∧
      paddingBlocks buf n len = [blockOf (buf.toList.take n ++ [0x80#8] ++ zeros (55 - n) ++ be64bytes len)]) ∧
    (56 ≤ n → n ≤ 63 →
      (buf.toList.take n ++ [0x80#8] ++ zeros (63 - n)).length = 64 ∧ (zeros 56 ++ be64bytes len).length = 64 ∧
      paddingBlocks buf n len =
        [blockOf (buf.toList.take n ++ [0x80#8] ++ zeros (63 - n)), blockOf (zeros 56 ++ be64bytes len)]) ∧
    (n ≤ 63 → ∃ last, (paddingBlocks buf n len).getLast? = some last ∧
      ∀ k : Fin 8, last[56 + k.val].toNat = len.toNat / 2 ^ (8 * (7 - k.val)) % 256)) ∧
  be64bytes 24#64 = [0#8, 0#8, 0#8, 0#8, 0#8, 0#8, 0#8, 0x18#8] ∧
  be64bytes 448#64 = [0#8, 0#8, 0#8, 0#8, 0#8, 0#8, 0x01#8, 0xc0#8]

/-- R112: `L = (BITCNT + 8 * FILL) mod 2^64`; and so it is the number of message bits absorbed since INIT (in either phase) or since reset,
modulo 2^64, before any padding. -/
def Obligations.LengthFieldCountsMessageBits : Prop :=
  (∀ (bitcnt : Count) (fill : BitVec 7), (lengthField bitcnt fill).toNat = (bitcnt.toNat + 8 * fill.toNat) % 2 ^ 64) ∧
  ∀ (start : List Instr) (s : State) (m : List Byte),
    ((start = [.init] ∧ s.fault = none ∧ s.busy = false) ∨ (start = [] ∧ s = State.reset)) →
    ∃ t, performAll (start ++ absorbs m) s = .next t ∧ (lengthField t.bitcnt t.fill).toNat = 8 * m.length % 2 ^ 64

/-- R116: `DIGEST[4i + k]` is byte `k` of `H[i]`, most significant first, taken after FINALIZE's last compression; and the example of the
rule. -/
def Obligations.DigestSerializesBigEndian : Prop :=
  (∀ s t : State, s.busy = true → s.pending = some 0x0300#16 → exec .finalize s = .next t → t.digest = serialize t.h) ∧
  (∀ (h : Chain) (i : Fin 8) (k : Fin 4), (serialize h)[4 * i.val + k.val].toNat = h[i].toNat / 2 ^ (24 - 8 * k.val) % 256) ∧
  ∀ h : Chain, h[0] = 0xba7816bf#32 →
    (serialize h)[0] = 0xba#8 ∧ (serialize h)[1] = 0x78#8 ∧ (serialize h)[2] = 0x16#8 ∧ (serialize h)[3] = 0xbf#8

/-! ### Hex encoding (43_readout.md) -/

/-- R129 and R130: the ASCII code of a digit 0 to 9 is 0x30 + v, of 10 to 15 it is 0x61 + (v - 10); an even character is its byte's high
nibble, an odd one the low nibble. -/
def Obligations.HexCharactersAreLowercaseNibbles : Prop :=
  (∀ v : BitVec 4, (v.toNat ≤ 9 → (hexdigit v).toNat = 0x30 + v.toNat) ∧
    (10 ≤ v.toNat → (hexdigit v).toNat = 0x61 + (v.toNat - 10))) ∧
  (∀ (d : Digest) (p : Fin 32) (hi lo : BitVec 4), hi.toNat = d[p].toNat / 16 → lo.toNat = d[p].toNat % 16 →
    hexchar d (BitVec.ofNat 6 (2 * p.val)) = hexdigit hi ∧ hexchar d (BitVec.ofNat 6 (2 * p.val + 1)) = hexdigit lo)

/-- The views of DIGEST agree, as the spec derives in R35 and R36: the words read from a serialised digest are the chaining words, and eight
hex characters spell the digest word they view. -/
def Obligations.DigestViewsAgree : Prop :=
  (∀ (h : Chain) (i : Fin 8), digestWord (serialize h) (BitVec.ofFin i) = h[i]) ∧
  ∀ (d : Digest) (i : Fin 8),
    (List.range 8).foldl (fun acc k =>
      16 * acc + (hexValue (Char.ofNat (hexchar d (BitVec.ofNat 6 (8 * i.val + k))).toNat)).getD 0) 0 =
    (digestWord d (BitVec.ofFin i)).toNat

/-- `encodeHex` gives 64 characters and loses nothing of the digest, so HEX is a faithful function of DIGEST alone (the spec derives this
in R132). -/
def Obligations.EncodeHexIsInjective : Prop :=
  (∀ d : Digest, (encodeHex d).length = 64) ∧ ∀ d e : Digest, encodeHex d = encodeHex e → d = e

/-! ### Reset (10_state.md R30, 70_reset_and_hazards.md) -/

/-- R30 and R160 for every element to which they give a value. DIGEST has none in the spec; the model's zeros are log 5. -/
def Obligations.ResetLeavesSpecValues : Prop :=
  State.reset.h.toList = [0x6a09e667#32, 0xbb67ae85#32, 0x3c6ef372#32, 0xa54ff53a#32,
    0x510e527f#32, 0x9b05688c#32, 0x1f83d9ab#32, 0x5be0cd19#32] ∧
  (∀ k : Fin 64, State.reset.buf[k] = 0#8) ∧ State.reset.fill = 0#7 ∧ State.reset.bitcnt = 0#64 ∧
  State.reset.finalized = false ∧ State.reset.busy = false ∧ State.reset.pending = none ∧ State.reset.fault = none ∧
  statusWord State.reset = 0#32

/-- R160 and R162: a reset puts every element at its reset value and discards a command in flight. That DIGEST
is zeros (R160 gives it no value) is the model's choice (log 5), that the latency is 0 too (log 6), and that the record of read values starts
empty, the count of accepted commands runs on and the later requests stay (log 7). -/
def Obligations.ResetRequestRestoresEngine : Prop :=
  ∀ (s : State) (rest : List Req), s.port = .reset :: rest → (s.fault = none → s.busy = true → s.lat ≠ 0) →
    step s = .next { State.reset with port := rest, accepted := s.accepted }

/-! ### The commands (40_init_absorb.md, 42_finalize.md) -/

/-- INIT (R70, R76, R77): idle, in either phase, it is accepted; in flight, it completes with every write of R70 and none to DIGEST. The
latency drawn at acceptance is the model's (log 1, log 2). -/
def Obligations.InitAcceptedThenCompleted : Prop :=
  ∀ s : State, s.fault = none →
    (s.busy = false → exec .init s = .next { s with
      pending := some 0x0100#16, busy := true, lat := Config.lat s.accepted, accepted := s.accepted + 1 }) ∧
    (s.busy = true → s.pending = some 0x0100#16 → exec .init s = .next { s with
      h := iv, buf := Vector.replicate 64 0#8, fill := 0#7, bitcnt := 0#64, finalized := false, pending := none, busy := false })

/-- ABSORB b (R72, R76, R77): idle in the absorbing phase, it is accepted; in flight, it appends its byte, and the 64th byte compresses the
block, empties the buffer and adds 512 to BITCNT. The latency drawn at acceptance is the model's (log 1, log 2). -/
def Obligations.AbsorbAcceptedThenCompleted : Prop :=
  ∀ (b : Byte) (s : State), s.fault = none →
    (s.busy = false → s.finalized = false → exec (.absorb b) s = .next { s with
      pending := some (0x0200#16 + b.setWidth 16), busy := true, lat := Config.lat s.accepted, accepted := s.accepted + 1 }) ∧
    (s.busy = true → s.pending = some (0x0200#16 + b.setWidth 16) → ∀ hk : s.fill.toNat < 64,
      exec (.absorb b) s = .next (
        if s.fill.toNat = 63 then
          { s with h := compress s.h (s.buf.set s.fill.toNat b), buf := s.buf.set s.fill.toNat b, fill := 0#7,
                   bitcnt := s.bitcnt + 512#64, pending := none, busy := false }
        else { s with buf := s.buf.set s.fill.toNat b, fill := s.fill + 1#7, pending := none, busy := false }))

/-- FINALIZE (R110, R76, R77): idle in the absorbing phase, it is accepted; in flight, it compresses one padded block for FILL up to 55 and
two for 56 to 63, writes DIGEST and sets FINALIZED. The latency drawn at acceptance is the model's (log 1, log 2). -/
def Obligations.FinalizeAcceptedThenCompleted : Prop :=
  ∀ s : State, s.fault = none →
    (s.busy = false → s.finalized = false → exec .finalize s = .next { s with
      pending := some 0x0300#16, busy := true, lat := Config.lat s.accepted, accepted := s.accepted + 1 }) ∧
    (s.busy = true → s.pending = some 0x0300#16 → s.fill.toNat ≤ 55 → ∀ h' : Chain,
      h' = compress s.h (blockOf (s.buf.toList.take s.fill.toNat ++ [0x80#8] ++ zeros (55 - s.fill.toNat) ++
        be64bytes (s.bitcnt + 8#64 * s.fill.setWidth 64))) →
      exec .finalize s = .next { s with
        h := h', digest := serialize h', finalized := true, pending := none, busy := false }) ∧
    (s.busy = true → s.pending = some 0x0300#16 → 56 ≤ s.fill.toNat → s.fill.toNat ≤ 63 → ∀ h' : Chain,
      h' = compress (compress s.h (blockOf (s.buf.toList.take s.fill.toNat ++ [0x80#8] ++ zeros (63 - s.fill.toNat))))
        (blockOf (zeros 56 ++ be64bytes (s.bitcnt + 8#64 * s.fill.setWidth 64))) →
      exec .finalize s = .next { s with
        h := h', digest := serialize h', finalized := true, pending := none, busy := false })

/-- R76 and R165: a command written while another is in flight is held: it changes nothing (that `exec` answers the same state is log 2), the
step completes the command in flight, and the write still stands first in the port after it. -/
def Obligations.WriteHeldWhileBusy : Prop :=
  (∀ (i : Instr) (w : CmdWord) (s : State), encode i = .cmd w → s.fault = none → s.busy = true → s.pending ≠ some w →
    exec i s = .next s) ∧
  (∀ (s : State) (w p : CmdWord) (rest : List Req) (i : Instr), s.fault = none → s.busy = true → s.fill.toNat ≤ 63 →
    s.port = .txn (.cmd w) :: rest → s.pending = some p → decodeCmd p = .ok i →
    ∃ t, step s = .next t ∧ exec i s = .next t ∧ t.port = .txn (.cmd w) :: rest ∧ t.busy = false)

/-! ### Reads (43_readout.md) -/

/-- RDSTATUS (R127, R26): in every state with no fault, busy or not, it returns bit 0 = BUSY, bit 1 = FINALIZED and the rest 0, and changes
nothing of the engine. -/
def Obligations.RdstatusReturnsStatus : Prop :=
  ∀ s : State, s.fault = none →
    exec .rdstatus s = .next { s with out := s.out ++ [BitVec.ofNat 32 (2 * s.finalized.toNat + s.busy.toNat)] }

/-- RDDIGEST i (R128, R126): with FINALIZED = 1 and BUSY = 0 it returns the four bytes of the digest word, most significant first. -/
def Obligations.RddigestReturnsDigestWord : Prop :=
  ∀ (s : State) (i : Fin 8), s.fault = none → s.busy = false → s.finalized = true →
    exec (.rddigest (BitVec.ofFin i)) s = .next { s with
      out := s.out ++ [be32 s.digest[4 * i.val] s.digest[4 * i.val + 1] s.digest[4 * i.val + 2] s.digest[4 * i.val + 3]] }

/-- RDHEX j (R131, R126): with FINALIZED = 1 and BUSY = 0 it returns the ASCII code of hex character `j`, high nibble first. -/
def Obligations.RdhexReturnsHexCharacter : Prop :=
  ∀ (s : State) (j : Fin 64) (v : Nat), s.fault = none → s.busy = false → s.finalized = true →
    v = (if j.val % 2 = 0 then s.digest[j.val / 2].toNat / 16 else s.digest[j.val / 2].toNat % 16) →
    exec (.rdhex (BitVec.ofFin j)) s = .next { s with
      out := s.out ++ [BitVec.ofNat 32 (if v ≤ 9 then 0x30 + v else 0x61 + (v - 10))] }

/-! ### Faults (60_exceptions.md) -/

/-- R142: an ABSORB or FINALIZE written while FINALIZED = 1 raises F3 with its word recorded and changes nothing else; INIT is legal there
and ends the finalized phase. -/
def Obligations.UseAfterFinalizeFaults : Prop :=
  ∀ s : State, s.fault = none → s.finalized = true →
    (s.busy = false → ∀ b : Byte, exec (.absorb b) s = .next { s with
      fault := some ⟨.useAfterFinalize, .word (0x0200#16 + b.setWidth 16)⟩ }) ∧
    (s.busy = false → exec .finalize s = .next { s with fault := some ⟨.useAfterFinalize, .word 0x0300#16⟩ }) ∧
    (s.busy = false → ∃ t u, exec .init s = .next t ∧ t.fault = none ∧ exec .init t = .next u ∧ u.fault = none ∧
      u.finalized = false)

/-- R143: a digest or hex read raises F5 while BUSY = 1 and F4 while FINALIZED = 0 and not busy, with its address recorded and nothing else
changed; a STATUS read never faults. -/
def Obligations.DigestReadFaults : Prop :=
  ∀ s : State, s.fault = none →
    (∀ (i : Instr) (a : Addr), ((∃ k, i = .rddigest k) ∨ ∃ j, i = .rdhex j) → encode i = .rd a →
      (s.busy = true → exec i s = .next { s with fault := some ⟨.readWhileBusy, .addr a⟩ }) ∧
      (s.busy = false → s.finalized = false → exec i s = .next { s with fault := some ⟨.digestNotValid, .addr a⟩ })) ∧
    (∃ t, exec .rdstatus s = .next t ∧ t.fault = none)

/-- R141 and R146: a command write raises F1, then F2, then F3, in either phase: a reserved opcode always F1, a reserved operand F2 whether
FINALIZED or not, and F3 only for a defined word. Nothing but FAULT changes; that the request is taken from the port is the model's
(log 4). -/
def Obligations.WriteFaultsInPriorityOrder : Prop :=
  ∀ (s : State) (w : CmdWord) (rest : List Req), s.fault = none → s.busy = false → s.port = .txn (.cmd w) :: rest →
    (CmdWord.opcodeDefined w = false →
      step s = .next { s with port := rest, lat := s.lat - 1, fault := some ⟨.rsvdOpcode, .word w⟩ }) ∧
    (CmdWord.opcodeDefined w = true → CmdWord.operandDefined w = false →
      step s = .next { s with port := rest, lat := s.lat - 1, fault := some ⟨.rsvdOperand, .word w⟩ }) ∧
    (CmdWord.opcodeDefined w = true → CmdWord.operandDefined w = true → w ≠ 0x0100#16 → s.finalized = true →
      step s = .next { s with port := rest, lat := s.lat - 1, fault := some ⟨.useAfterFinalize, .word w⟩ })

/-- R144 and R147: a read raises F6, then F5, then F4: a reserved address F6 whatever the engine's state, and a digest or hex address F5 while
busy even though FINALIZED = 0. The host's step comes first while the latency has not gone (log 1), and takes the request (log 4). -/
def Obligations.ReadFaultsInPriorityOrder : Prop :=
  ∀ (s : State) (a : Addr) (rest : List Req), s.fault = none → (s.busy = true → s.lat ≠ 0) → s.port = .txn (.rd a) :: rest →
    (Addr.defined a = false →
      step s = .next { s with port := rest, lat := s.lat - 1, fault := some ⟨.rsvdAddress, .addr a⟩ }) ∧
    (Addr.defined a = true → a ≠ 0#7 → s.busy = true →
      step s = .next { s with port := rest, lat := s.lat - 1, fault := some ⟨.readWhileBusy, .addr a⟩ }) ∧
    (Addr.defined a = true → a ≠ 0#7 → s.busy = false → s.finalized = false →
      step s = .next { s with port := rest, lat := s.lat - 1, fault := some ⟨.digestNotValid, .addr a⟩ })

/-- R23, R145 and R150: once FAULT is set every operation and every step is disabled (they answer `halted`, log 3), and only a reset goes on,
from the reset state; that it skips the failed run's lines and keeps the later ones and the count is the model's choice (log 7), as are the
zeros of DIGEST (log 5) and the latency 0 (log 6) of that state. -/
def Obligations.FaultEndsTheRun : Prop :=
  ∀ (s : State) (m : FaultMark), s.fault = some m →
    (∀ i, exec i s = .fault (.halted m)) ∧
    (Req.reset ∉ s.port → step s = .fault (.halted m)) ∧
    (∀ before rest, Req.reset ∉ before → s.port = before ++ .reset :: rest →
      step s = .next { State.reset with port := rest, accepted := s.accepted })

/-! ### Frames -/

/-- What INIT leaves unchanged: DIGEST, the port and the record always; everything else of the engine's data when it is only accepted. -/
def Obligations.InitFrame : Prop :=
  ∀ s t : State, exec .init s = .next t →
    t.digest = s.digest ∧ t.fault = s.fault ∧ t.port = s.port ∧ t.out = s.out ∧
    (s.busy = false → t.h = s.h ∧ t.buf = s.buf ∧ t.fill = s.fill ∧ t.bitcnt = s.bitcnt ∧ t.finalized = s.finalized) ∧
    (s.busy = true → t.lat = s.lat ∧ t.accepted = s.accepted)

/-- What ABSORB leaves unchanged: FINALIZED, DIGEST, every byte of BUF but the one at FILL; H and BITCNT unless the block fills; FAULT unless
it raises F3; and all the data when it is only accepted or raises F3. -/
def Obligations.AbsorbFrame : Prop :=
  ∀ (b : Byte) (s t : State), exec (.absorb b) s = .next t →
    t.finalized = s.finalized ∧ t.digest = s.digest ∧ t.port = s.port ∧ t.out = s.out ∧
    (∀ k : Fin 64, k.val ≠ s.fill.toNat → t.buf[k] = s.buf[k]) ∧
    (s.fill.toNat ≠ 63 → t.h = s.h ∧ t.bitcnt = s.bitcnt) ∧
    (s.busy = false → t.h = s.h ∧ t.buf = s.buf ∧ t.fill = s.fill ∧ t.bitcnt = s.bitcnt) ∧
    (s.busy = true ∨ s.finalized = false → t.fault = s.fault) ∧
    (s.busy = true ∨ s.finalized = true → t.lat = s.lat ∧ t.accepted = s.accepted)

/-- What FINALIZE leaves unchanged (R120): BUF, FILL and BITCNT always; FAULT unless it raises F3; all the data when it is only accepted or
raises F3. -/
def Obligations.FinalizeFrame : Prop :=
  ∀ s t : State, exec .finalize s = .next t →
    t.buf = s.buf ∧ t.fill = s.fill ∧ t.bitcnt = s.bitcnt ∧ t.port = s.port ∧ t.out = s.out ∧
    (s.busy = false → t.h = s.h ∧ t.digest = s.digest ∧ t.finalized = s.finalized) ∧
    (s.busy = true ∨ s.finalized = false → t.fault = s.fault) ∧
    (s.busy = true ∨ s.finalized = true → t.lat = s.lat ∧ t.accepted = s.accepted)

/-- What the three reads leave unchanged (R39, R125): all of the state but the host's record, and FAULT where they raise; a read that raises
returns no value. -/
def Obligations.ReadsChangeNoEngineState : Prop :=
  ∀ (i : Instr) (a : Addr) (s t : State), encode i = .rd a → exec i s = .next t →
    t = { s with out := t.out, fault := t.fault } ∧
    ((t.fault = none ∧ ∃ v, t.out = s.out ++ [v]) ∨ (t.fault.isSome = true ∧ t.out = s.out))

/-! ### Whole-machine rules -/

/-- R22: only FINALIZE writes DIGEST, and only at its completion; no other operation changes it, and no other step but one that performs a
reset: with no fault, a reset first in the port with the engine's completion not before it (log 1); after a fault, any reset (log 7). -/
def Obligations.OnlyFinalizeWritesDigest : Prop :=
  (∀ (i : Instr) (s t : State), exec i s = .next t → t.digest ≠ s.digest →
    i = .finalize ∧ s.busy = true ∧ s.pending = some 0x0300#16) ∧
  (∀ s t : State, step s = .next t → t.digest ≠ s.digest →
    (s.fault = none → s.port.head? = some .reset → s.busy = true ∧ s.lat = 0) → (s.fault ≠ none → Req.reset ∉ s.port) →
    s.busy = true ∧ s.pending = some 0x0300#16)

/-- R14 and R19: of all operations, FINALIZE alone sets FINALIZED and INIT alone clears it, and the chaining words change only by INIT, by the
ABSORB that fills the buffer, and by FINALIZE. -/
def Obligations.WritersOfPhaseAndChain : Prop :=
  ∀ (i : Instr) (s t : State), exec i s = .next t →
    (s.finalized = false → t.finalized = true → i = .finalize) ∧ (s.finalized = true → t.finalized = false → i = .init) ∧
    (t.h ≠ s.h → i = .init ∨ (s.fill.toNat = 63 ∧ ∃ b, i = .absorb b) ∨ i = .finalize)

/-! ### The step -/

/-- The step runs the operation the first request decodes to, where the host's step is the next: the request is taken and one host step of
the latency has gone (log 1, log 4). -/
def Obligations.StepRunsRequestedInstruction : Prop :=
  ∀ (s : State) (tr : Transaction) (i : Instr) (rest : List Req),
    s.fault = none → s.port = .txn tr :: rest → decode tr = .ok i →
    (s.busy = true → (∃ a, tr = .rd a) ∧ s.lat ≠ 0) →
    step s = exec i { s with port := rest, lat := s.lat - 1 }

/-- The step completes the command in flight (R77, R78) where the host has no request it can perform or the latency has gone. -/
def Obligations.StepCompletesPendingCommand : Prop :=
  ∀ (s : State) (w : CmdWord) (i : Instr), s.fault = none → s.busy = true → s.pending = some w → decodeCmd w = .ok i →
    (s.port = [] ∨ (∃ v rest, s.port = .txn (.cmd v) :: rest) ∨ s.lat = 0) →
    step s = exec i s

/-- An opcode-table word placed to run next is what the very next step runs, a command with nothing in flight (so that it is not held), a
read with whatever is in flight (log 4, log 16). -/
def Obligations.PlacedWordRunsNext : Prop :=
  ∀ (s : State) (nbits w : Nat) (i : Instr), decodeTableWord nbits w = some i →
    (encode i).wellFormed = true ∧
    ∃ u, step (s.withFetchWord nbits w) = exec i u ∧ u.port = s.port ∧ u.fault = none ∧ u.h = s.h ∧ u.buf = s.buf ∧
      u.fill = s.fill ∧ u.bitcnt = s.bitcnt ∧ u.finalized = s.finalized ∧ u.digest = s.digest ∧ u.out = s.out ∧ u.accepted = s.accepted ∧
      (∀ c, encode i = .cmd c → u.busy = false ∧ u.pending = none) ∧
      (∀ a, encode i = .rd a → u.busy = s.busy ∧ u.pending = s.pending)

/-- R148: with a command in flight and a read requested, either step may come first, whichever the latency names. -/
def Obligations.EitherStepMayComeFirst : Prop :=
  ∀ (s : State) (a : Addr) (w : CmdWord) (rest : List Req) (i j : Instr), s.fault = none → s.busy = true →
    s.port = .txn (.rd a) :: rest → decodeRd a = .ok i → s.pending = some w → decodeCmd w = .ok j →
    step { s with lat := 0 } = exec j { s with lat := 0 } ∧
    ∀ n, step { s with lat := n + 1 } = exec i { s with port := rest, lat := n }

/-- R68: a WAIT is over with a read that shows BUSY = 0 and goes on with one that shows BUSY = 1; its reads are not recorded and change
nothing (log 10). -/
def Obligations.WaitPollsStatus : Prop :=
  ∀ (s : State) (rest : List Req), s.fault = none → s.port = .wait :: rest →
    (s.busy = false → step s = .next { s with port := rest, lat := s.lat - 1 }) ∧
    (s.busy = true → s.lat ≠ 0 → step s = .next { s with lat := s.lat - 1 })

/-- R169: every WAIT ends: from every state of the invariant with no fault the machine reaches, within the latency and two steps more, a
state with the WAIT performed and no command in flight. The bound is the model's latency (log 1), which stands for R169's fairness. -/
def Obligations.EveryWaitEnds : Prop :=
  ∀ (s : State) (rest : List Req), Inv s → s.fault = none → s.port = .wait :: rest →
    ∃ n t, n ≤ s.lat + 2 ∧ Host.Core.run Sys2Proof.core n s = .next t ∧ t.port = rest ∧ t.busy = false ∧ t.fault = none ∧
      t.out = s.out

/-- R169 and R170: every finite host program runs to its end: from every state of the invariant the machine reaches a state in which every
request has been performed and the run succeeds, or a fault has been raised and it fails. The model's finite latency (log 1) stands for
R169's fairness. -/
def Obligations.EveryProgramEnds : Prop :=
  ∀ s : State, Inv s → ∃ n t, Host.Core.run Sys2Proof.core n s = .next t ∧ ((t.port = [] ∧ runEnd t = .succeeds) ∨ runEnd t = .fails)

/-- R156: with nothing requested and nothing in flight the engine holds its state (that this is a step is the model's, log 4). -/
def Obligations.IdleEngineHoldsState : Prop :=
  ∀ s : State, s.fault = none → s.busy = false → s.port = [] → step s = .next s

/-! ### Invariants and what the host cannot observe -/

/-- Reset meets the invariants of R31. -/
def Obligations.ResetMeetsInvariants : Prop := Inv State.reset

/-- The invariants that the spec derives in R31 (with R78, R79 and R35) are kept by every step, from every state that meets them. -/
def Obligations.StepKeepsInvariants : Prop := ∀ s t : State, Inv s → step s = .next t → Inv t

/-- From a state of the invariants a step stops only because a fault has been raised before it: no step faults in any other way and none is
refused (R157). -/
def Obligations.StepStopsOnlyAfterFault : Prop :=
  ∀ s : State, Inv s → (∃ t, step s = .next t) ∨ ∃ m, s.fault = some m ∧ step s = .fault (.halted m)

/-- What the spec derives in R33: a read's answer depends on nothing but FAULT, BUSY, FINALIZED and DIGEST. -/
def Obligations.ReadsRevealOnlyVisibleState : Prop :=
  ∀ (i : Instr) (a : Addr) (s t s' : State), encode i = .rd a →
    t.fault = s.fault → t.busy = s.busy → t.finalized = s.finalized → t.digest = s.digest → t.out = s.out →
    exec i s = .next s' → ∃ t', exec i t = .next t' ∧ t'.out = s'.out ∧ t'.fault = s'.fault

/-- What the spec derives in R32: while FINALIZED = 1, two states that differ only in H, BUF, FILL and BITCNT step alike; they differ in
nothing else after the step, and in nothing at all once FINALIZED is 0 again. -/
def Obligations.FinalizedHashStateUnobservable : Prop :=
  ∀ s t : State, s.finalized = true → pendingAllowed s.finalized s.pending = true → SameButHashState s t →
    OutcomesAgree (fun s' t' => SameButHashState s' t' ∧ (s'.finalized = false → s' = t')) (step s) (step t)

/-- R16: a byte of BUF at index FILL or above is read by no rule: two states that differ only there step alike and differ only there after
it. -/
def Obligations.BufferTailUnobservable : Prop :=
  ∀ s t : State, s.fill.toNat ≤ 63 → SameButBufferTail s t → OutcomesAgree SameButBufferTail (step s) (step t)

/-! ### Messages -/

/-- What the spec derives in R73 and R31: from any idle engine after INIT, or from reset, a message's bytes leave FILL, BITCNT, H and the
buffered bytes that the message's whole blocks and remainder give. -/
def Obligations.AbsorbedMessageState : Prop :=
  ∀ (start : List Instr) (s : State) (m : List Byte),
    ((start = [.init] ∧ s.fault = none ∧ s.busy = false) ∨ (start = [] ∧ s = State.reset)) →
    ∃ t, performAll (start ++ absorbs m) s = .next t ∧ t.fault = none ∧ t.busy = false ∧ t.finalized = false ∧
      t.fill.toNat = m.length % 64 ∧ t.bitcnt.toNat = 512 * (m.length / 64) % 2 ^ 64 ∧
      t.h = (wholeBlocks m).foldl compress iv ∧
      t.buf.toList.take t.fill.toNat = m.drop (64 * (m.length / 64))

/-- What the spec derives in R118: from any idle engine, in either phase, INIT, a message's bytes and FINALIZE leave in DIGEST the hash of
the padded message, for every message; from reset the INIT is not needed (R163). -/
def Obligations.DigestIsHashOfPaddedMessage : Prop :=
  ∀ (start : List Instr) (s : State) (m : List Byte),
    ((start = [.init] ∧ s.fault = none ∧ s.busy = false) ∨ (start = [] ∧ s = State.reset)) →
    ∃ t, performAll (start ++ absorbs m ++ [.finalize]) s = .next t ∧ t.fault = none ∧ t.busy = false ∧ t.finalized = true ∧
      t.digest = messageDigest m

/-- The padding of R118: its zero count is the least that makes the padded message whole blocks. -/
def Obligations.PaddingZerosAreLeast : Prop :=
  ∀ m : List Byte, (paddedMessage m).length % 64 = 0 ∧
    ∀ k, (m.length + 1 + k + 8) % 64 = 0 → paddingZeros m.length ≤ k

/-- What the spec derives in R75: however a message is split into two chunks, with STATUS read between them or not, the engine's data come
out the same. -/
def Obligations.ChunkingIsInvisible : Prop :=
  ∀ (s : State) (m n : List Byte), s.fault = none → s.busy = false → s.finalized = false → s.fill.toNat ≤ 63 →
    ∃ t u, performAll (absorbs (m ++ n)) s = .next t ∧ performAll (absorbs m ++ .rdstatus :: absorbs n) s = .next u ∧
      u = { t with out := s.out ++ [0#32] }

/-- What the spec derives in R71: INIT twice leaves the engine as INIT once, and leaves H, BUF, FILL, BITCNT and FINALIZED as reset does. -/
def Obligations.InitIsIdempotentAndLikeReset : Prop :=
  ∀ s : State, s.fault = none → s.busy = false →
    ∃ t u, performAll [.init] s = .next t ∧ performAll [.init, .init] s = .next u ∧
      u = { t with lat := u.lat, accepted := u.accepted } ∧
      t.h = State.reset.h ∧ t.buf = State.reset.buf ∧ t.fill = State.reset.fill ∧ t.bitcnt = State.reset.bitcnt ∧
      t.finalized = State.reset.finalized

/-! ### Host programs and instances -/

/-- R62 to R64 and R67 to R69: an operand in its range gives the one transaction of the operation and an operand out of it none; the
pseudo-instructions expand to one ABSORB for each byte in order, and to the reads in order; WAIT is one request (log 10). -/
def Obligations.LinesExpandToTransactions : Prop :=
  (Line.expand .init = some [.txn (.cmd 0x0100#16)] ∧ Line.expand .finalize = some [.txn (.cmd 0x0300#16)] ∧
    Line.expand .rdstatus = some [.txn (.rd 0x00#7)] ∧ Line.expand .wait = some [.wait]) ∧
  (∀ n : Nat,
    (Line.expand (.rawCmd n) = if n ≤ 65535 then some [.txn (.cmd (BitVec.ofNat 16 n))] else none) ∧
    (Line.expand (.rawRd n) = if n ≤ 127 then some [.txn (.rd (BitVec.ofNat 7 n))] else none) ∧
    (Line.expand (.absorb n) = if n ≤ 255 then some [.txn (.cmd (BitVec.ofNat 16 (0x0200 + n)))] else none) ∧
    (Line.expand (.rddigest n) = if n ≤ 7 then some [.txn (.rd (BitVec.ofNat 7 (0x08 + n)))] else none) ∧
    (Line.expand (.rdhex n) = if n ≤ 63 then some [.txn (.rd (BitVec.ofNat 7 (0x40 + n)))] else none)) ∧
  (∀ m : List Byte, Line.expand (.absorbs m) = some (m.map fun b => .txn (.cmd (0x0200#16 + b.setWidth 16)))) ∧
  (∀ m : List Byte, Line.expand (.hash m) = some ([.txn (.cmd 0x0100#16)] ++
    (m.map fun b => .txn (.cmd (0x0200#16 + b.setWidth 16))) ++ [.txn (.cmd 0x0300#16), .wait])) ∧
  Line.expand .rddigestall = some ((List.range 8).map fun i => .txn (.rd (BitVec.ofNat 7 (0x08 + i)))) ∧
  Line.expand .rdhexall = some ((List.range 64).map fun j => .txn (.rd (BitVec.ofNat 7 (0x40 + j))))

/-- R67: the text of an ABSORBX line with a message's bytes as hex digits, two to a byte, assembles to one ABSORB for each byte in order. -/
def Obligations.AbsorbxTextAssemblesToItsBytes : Prop :=
  ∀ m : List Byte,
    assemble (['A', 'B', 'S', 'O', 'R', 'B', 'X', ' '] ++ m.flatMap fun b =>
      [Char.ofNat (hexdigit (b.extractLsb' 4 4)).toNat, Char.ofNat (hexdigit (b.extractLsb' 0 4)).toNat]) =
    some (m.map fun b => .txn (encode (.absorb b)))

/-- R43 and R155: a step of one instance leaves every other as it was, and what it answers, a next state or a stop, depends on that instance
alone. That a system is a list of states and the caller names which instance moves is the model's choice (log 12). -/
def Obligations.InstancesAreIndependent : Prop :=
  ∀ (k : Nat) (xs ys : List State) (s : State), xs[k]? = some s →
    (stepInstance k xs = .next ys →
      ys.length = xs.length ∧ (∀ j, j ≠ k → ys[j]? = xs[j]?) ∧ ∃ t, step s = .next t ∧ ys[k]? = some t) ∧
    (∀ zs : List State, zs[k]? = some s →
      (∀ t, step s = .next t → stepInstance k xs = .next (xs.set k t) ∧ stepInstance k zs = .next (zs.set k t)) ∧
      (∀ f, step s = .fault f → stepInstance k xs = .fault f ∧ stepInstance k zs = .fault f) ∧
      (∀ r, step s = .refused r → stepInstance k xs = .refused r ∧ stepInstance k zs = .refused r))
end

