-- ==== Sys2Proof/Laws/Encoding.lean ====
section
/-! SUPPORT. What holds of every operation as syntax, and the lengths of the byte sequences that become blocks. -/

namespace Sys2Proof.Laws

open Sys2Proof.Machine

/-- The fields' widths keep every operand in its range (30_encoding.md R62, R63). -/
theorem instr_wellFormed (i : Instr) : i.wellFormed = true := by
  cases i with
  | absorb b => have := b.isLt; simp only [Instr.wellFormed, decide_eq_true_eq]; omega
  | rddigest i => have := i.isLt; simp only [Instr.wellFormed, decide_eq_true_eq]; omega
  | rdhex j => have := j.isLt; simp only [Instr.wellFormed, decide_eq_true_eq]; omega
  | init | finalize | rdstatus => rfl

@[simp] theorem zeros_length (n : Nat) : (zeros n).length = n := List.length_replicate

@[simp] theorem be64bytes_length (v : Count) : (be64bytes v).length = 8 := rfl

/-- The marker follows the `n` buffered bytes (42_finalize.md R111). -/
theorem marked_length (buf : Block) {n : Nat} (hn : n ≤ 63) : (marked buf n).length = n + 1 := by
  simp [marked]; omega

/-- The first padding block is 64 bytes (42_finalize.md R114). -/
theorem firstPadding_length (buf : Block) {n : Nat} (hn : n ≤ 63) : (firstPadding buf n).length = 64 := by
  simp [firstPadding, marked_length buf hn]; omega

/-- The final block is 64 bytes (42_finalize.md R113, R114). -/
theorem finalPadding_length (buf : Block) {n : Nat} (hn : n ≤ 63) (len : Count) : (finalPadding buf n len).length = 64 := by
  unfold finalPadding
  split
  · simp
  · have := marked_length buf hn
    simp [this]; omega

end Sys2Proof.Laws
end

