-- ==== Sys2Proof/Laws/State.lean ====
section
/-! SUPPORT. What each state operation of Ops does to each field of the state, one lemma per field, true by unfolding. -/

namespace Sys2Proof.Machine

@[simp] theorem State.raise_h (c : FaultCode) (i : FaultInfo) (s : State) : (s.raise c i).h = s.h := rfl
@[simp] theorem State.raise_buf (c : FaultCode) (i : FaultInfo) (s : State) : (s.raise c i).buf = s.buf := rfl
@[simp] theorem State.raise_fill (c : FaultCode) (i : FaultInfo) (s : State) : (s.raise c i).fill = s.fill := rfl
@[simp] theorem State.raise_bitcnt (c : FaultCode) (i : FaultInfo) (s : State) : (s.raise c i).bitcnt = s.bitcnt := rfl
@[simp] theorem State.raise_finalized (c : FaultCode) (i : FaultInfo) (s : State) : (s.raise c i).finalized = s.finalized := rfl
@[simp] theorem State.raise_digest (c : FaultCode) (i : FaultInfo) (s : State) : (s.raise c i).digest = s.digest := rfl
@[simp] theorem State.raise_busy (c : FaultCode) (i : FaultInfo) (s : State) : (s.raise c i).busy = s.busy := rfl
@[simp] theorem State.raise_pending (c : FaultCode) (i : FaultInfo) (s : State) : (s.raise c i).pending = s.pending := rfl
@[simp] theorem State.raise_fault (c : FaultCode) (i : FaultInfo) (s : State) : (s.raise c i).fault = some ⟨c, i⟩ := rfl
@[simp] theorem State.raise_port (c : FaultCode) (i : FaultInfo) (s : State) : (s.raise c i).port = s.port := rfl
@[simp] theorem State.raise_out (c : FaultCode) (i : FaultInfo) (s : State) : (s.raise c i).out = s.out := rfl
@[simp] theorem State.raise_lat (c : FaultCode) (i : FaultInfo) (s : State) : (s.raise c i).lat = s.lat := rfl
@[simp] theorem State.raise_accepted (c : FaultCode) (i : FaultInfo) (s : State) : (s.raise c i).accepted = s.accepted := rfl

@[simp] theorem State.applyReset_h (rest : List Req) (s : State) : (s.applyReset rest).h = iv := rfl
@[simp] theorem State.applyReset_buf (rest : List Req) (s : State) : (s.applyReset rest).buf = Vector.replicate 64 0x00#8 := rfl
@[simp] theorem State.applyReset_fill (rest : List Req) (s : State) : (s.applyReset rest).fill = 0#7 := rfl
@[simp] theorem State.applyReset_bitcnt (rest : List Req) (s : State) : (s.applyReset rest).bitcnt = 0#64 := rfl
@[simp] theorem State.applyReset_finalized (rest : List Req) (s : State) : (s.applyReset rest).finalized = false := rfl
@[simp] theorem State.applyReset_digest (rest : List Req) (s : State) : (s.applyReset rest).digest = Vector.replicate 32 0x00#8 := rfl
@[simp] theorem State.applyReset_busy (rest : List Req) (s : State) : (s.applyReset rest).busy = false := rfl
@[simp] theorem State.applyReset_pending (rest : List Req) (s : State) : (s.applyReset rest).pending = none := rfl
@[simp] theorem State.applyReset_fault (rest : List Req) (s : State) : (s.applyReset rest).fault = none := rfl
@[simp] theorem State.applyReset_port (rest : List Req) (s : State) : (s.applyReset rest).port = rest := rfl
@[simp] theorem State.applyReset_out (rest : List Req) (s : State) : (s.applyReset rest).out = [] := rfl
@[simp] theorem State.applyReset_lat (rest : List Req) (s : State) : (s.applyReset rest).lat = 0 := rfl
@[simp] theorem State.applyReset_accepted (rest : List Req) (s : State) : (s.applyReset rest).accepted = s.accepted := rfl

@[simp] theorem State.accept_h (w : CmdWord) (s : State) : (s.accept w).h = s.h := rfl
@[simp] theorem State.accept_buf (w : CmdWord) (s : State) : (s.accept w).buf = s.buf := rfl
@[simp] theorem State.accept_fill (w : CmdWord) (s : State) : (s.accept w).fill = s.fill := rfl
@[simp] theorem State.accept_bitcnt (w : CmdWord) (s : State) : (s.accept w).bitcnt = s.bitcnt := rfl
@[simp] theorem State.accept_finalized (w : CmdWord) (s : State) : (s.accept w).finalized = s.finalized := rfl
@[simp] theorem State.accept_digest (w : CmdWord) (s : State) : (s.accept w).digest = s.digest := rfl
@[simp] theorem State.accept_busy (w : CmdWord) (s : State) : (s.accept w).busy = true := rfl
@[simp] theorem State.accept_pending (w : CmdWord) (s : State) : (s.accept w).pending = some w := rfl
@[simp] theorem State.accept_fault (w : CmdWord) (s : State) : (s.accept w).fault = s.fault := rfl
@[simp] theorem State.accept_port (w : CmdWord) (s : State) : (s.accept w).port = s.port := rfl
@[simp] theorem State.accept_out (w : CmdWord) (s : State) : (s.accept w).out = s.out := rfl
@[simp] theorem State.accept_lat (w : CmdWord) (s : State) : (s.accept w).lat = Config.lat s.accepted := rfl
@[simp] theorem State.accept_accepted (w : CmdWord) (s : State) : (s.accept w).accepted = s.accepted + 1 := rfl

@[simp] theorem State.complete_h (s : State) : (s.complete).h = s.h := rfl
@[simp] theorem State.complete_buf (s : State) : (s.complete).buf = s.buf := rfl
@[simp] theorem State.complete_fill (s : State) : (s.complete).fill = s.fill := rfl
@[simp] theorem State.complete_bitcnt (s : State) : (s.complete).bitcnt = s.bitcnt := rfl
@[simp] theorem State.complete_finalized (s : State) : (s.complete).finalized = s.finalized := rfl
@[simp] theorem State.complete_digest (s : State) : (s.complete).digest = s.digest := rfl
@[simp] theorem State.complete_busy (s : State) : (s.complete).busy = false := rfl
@[simp] theorem State.complete_pending (s : State) : (s.complete).pending = none := rfl
@[simp] theorem State.complete_fault (s : State) : (s.complete).fault = s.fault := rfl
@[simp] theorem State.complete_port (s : State) : (s.complete).port = s.port := rfl
@[simp] theorem State.complete_out (s : State) : (s.complete).out = s.out := rfl
@[simp] theorem State.complete_lat (s : State) : (s.complete).lat = s.lat := rfl
@[simp] theorem State.complete_accepted (s : State) : (s.complete).accepted = s.accepted := rfl

@[simp] theorem State.record_h (v : Word) (s : State) : (s.record v).h = s.h := rfl
@[simp] theorem State.record_buf (v : Word) (s : State) : (s.record v).buf = s.buf := rfl
@[simp] theorem State.record_fill (v : Word) (s : State) : (s.record v).fill = s.fill := rfl
@[simp] theorem State.record_bitcnt (v : Word) (s : State) : (s.record v).bitcnt = s.bitcnt := rfl
@[simp] theorem State.record_finalized (v : Word) (s : State) : (s.record v).finalized = s.finalized := rfl
@[simp] theorem State.record_digest (v : Word) (s : State) : (s.record v).digest = s.digest := rfl
@[simp] theorem State.record_busy (v : Word) (s : State) : (s.record v).busy = s.busy := rfl
@[simp] theorem State.record_pending (v : Word) (s : State) : (s.record v).pending = s.pending := rfl
@[simp] theorem State.record_fault (v : Word) (s : State) : (s.record v).fault = s.fault := rfl
@[simp] theorem State.record_port (v : Word) (s : State) : (s.record v).port = s.port := rfl
@[simp] theorem State.record_out (v : Word) (s : State) : (s.record v).out = s.out ++ [v] := rfl
@[simp] theorem State.record_lat (v : Word) (s : State) : (s.record v).lat = s.lat := rfl
@[simp] theorem State.record_accepted (v : Word) (s : State) : (s.record v).accepted = s.accepted := rfl

@[simp] theorem State.take_h (rest : List Req) (s : State) : (s.take rest).h = s.h := rfl
@[simp] theorem State.take_buf (rest : List Req) (s : State) : (s.take rest).buf = s.buf := rfl
@[simp] theorem State.take_fill (rest : List Req) (s : State) : (s.take rest).fill = s.fill := rfl
@[simp] theorem State.take_bitcnt (rest : List Req) (s : State) : (s.take rest).bitcnt = s.bitcnt := rfl
@[simp] theorem State.take_finalized (rest : List Req) (s : State) : (s.take rest).finalized = s.finalized := rfl
@[simp] theorem State.take_digest (rest : List Req) (s : State) : (s.take rest).digest = s.digest := rfl
@[simp] theorem State.take_busy (rest : List Req) (s : State) : (s.take rest).busy = s.busy := rfl
@[simp] theorem State.take_pending (rest : List Req) (s : State) : (s.take rest).pending = s.pending := rfl
@[simp] theorem State.take_fault (rest : List Req) (s : State) : (s.take rest).fault = s.fault := rfl
@[simp] theorem State.take_port (rest : List Req) (s : State) : (s.take rest).port = rest := rfl
@[simp] theorem State.take_out (rest : List Req) (s : State) : (s.take rest).out = s.out := rfl
@[simp] theorem State.take_lat (rest : List Req) (s : State) : (s.take rest).lat = s.lat - 1 := rfl
@[simp] theorem State.take_accepted (rest : List Req) (s : State) : (s.take rest).accepted = s.accepted := rfl

@[simp] theorem State.reset_h : State.reset.h = iv := rfl
@[simp] theorem State.reset_buf : State.reset.buf = Vector.replicate 64 0x00#8 := rfl
@[simp] theorem State.reset_fill : State.reset.fill = 0#7 := rfl
@[simp] theorem State.reset_bitcnt : State.reset.bitcnt = 0#64 := rfl
@[simp] theorem State.reset_finalized : State.reset.finalized = false := rfl
@[simp] theorem State.reset_digest : State.reset.digest = Vector.replicate 32 0x00#8 := rfl
@[simp] theorem State.reset_busy : State.reset.busy = false := rfl
@[simp] theorem State.reset_pending : State.reset.pending = none := rfl
@[simp] theorem State.reset_fault : State.reset.fault = none := rfl
@[simp] theorem State.reset_port : State.reset.port = [] := rfl
@[simp] theorem State.reset_out : State.reset.out = [] := rfl
@[simp] theorem State.reset_lat : State.reset.lat = 0 := rfl
@[simp] theorem State.reset_accepted : State.reset.accepted = 0 := rfl

end Sys2Proof.Machine
end

