-- ==== Sys2Proof/Laws/Ops.lean ====
section
/-! SUPPORT. One lemma for each shared operation: everything it can do. Later proofs cite these and do not unfold the operation. -/

namespace Sys2Proof.Laws

open Sys2Proof.Machine

/-- A completion that answers a state ends the command over the state its effect answered. -/
theorem finish_next {r : Result} {t : State} (h : finish r = .next t) : ∃ u, r = .next u ∧ t = u.complete := by
  cases r with
  | next u => exact ⟨u, rfl, by simpa [finish] using h.symm⟩
  | fault f => simp [finish] at h
  | refused q => simp [finish] at h

/-- Everything a command can answer as a next state: its completion, a held write, F3, or its acceptance. -/
theorem command_cases {w : CmdWord} {ab : Bool} {eff : State → Result} {s t : State} (h : command w ab eff s = .next t) :
    s.fault = none ∧
    ((s.busy = true ∧ s.pending = some w ∧ ∃ u, eff s = .next u ∧ t = u.complete) ∨
     (s.busy = true ∧ s.pending ≠ some w ∧ t = s) ∨
     (s.busy = false ∧ ab = true ∧ s.finalized = true ∧ t = s.raise .useAfterFinalize (.word w)) ∨
     (s.busy = false ∧ (ab = false ∨ s.finalized = false) ∧ t = s.accept w)) := by
  unfold command at h
  split at h
  · cases h
  · refine ⟨by assumption, ?_⟩
    split at h
    · rename_i hb
      split at h
      · rename_i hp
        exact .inl ⟨hb, hp, finish_next h⟩
      · rename_i hp
        exact .inr (.inl ⟨hb, hp, by simpa using h.symm⟩)
    · rename_i hb
      split at h
      · rename_i hf
        simp only [Bool.and_eq_true] at hf
        exact .inr (.inr (.inl ⟨by simpa using hb, hf.1, hf.2, by simpa using h.symm⟩))
      · rename_i hf
        exact .inr (.inr (.inr ⟨by simpa using hb, by cases ab <;> simp_all, by simpa using h.symm⟩))

/-- Everything a read can answer as a next state: F5, F4, or the value recorded. -/
theorem hostRead_cases {a : Addr} {nd : Bool} {value : State → Word} {s t : State} (h : hostRead a nd value s = .next t) :
    s.fault = none ∧
    ((nd = true ∧ s.busy = true ∧ t = s.raise .readWhileBusy (.addr a)) ∨
     (nd = true ∧ s.busy = false ∧ s.finalized = false ∧ t = s.raise .digestNotValid (.addr a)) ∨
     ((nd = false ∨ (s.busy = false ∧ s.finalized = true)) ∧ t = s.record (value s))) := by
  unfold hostRead at h
  split at h
  · cases h
  · refine ⟨by assumption, ?_⟩
    cases nd <;> cases hb : s.busy <;> cases hf : s.finalized <;> simp_all

/-- Everything ABSORB's effect can do: append a byte, or complete a block. -/
theorem absorbEffect_cases {b : Byte} {s t : State} (h : absorbEffect b s = .next t) :
    ∃ hk : s.fill.toNat < 64,
      (s.fill.toNat = 63 ∧
        t = { s with h := compress s.h (s.buf.set s.fill.toNat b), buf := s.buf.set s.fill.toNat b, fill := 0#7,
                     bitcnt := s.bitcnt + 512#64 }) ∨
      (s.fill.toNat < 63 ∧ t = { s with buf := s.buf.set s.fill.toNat b, fill := s.fill + 1#7 }) := by
  unfold absorbEffect at h
  split at h
  · rename_i hk
    refine ⟨hk, ?_⟩
    split at h
    · exact .inl ⟨by omega, by simpa using h.symm⟩
    · exact .inr ⟨by omega, by simpa using h.symm⟩
  · cases h

/-- Everything FINALIZE's effect can do. -/
theorem finalizeEffect_cases {s t : State} (h : finalizeEffect s = .next t) :
    s.fill.toNat < 64 ∧ t = { s with h := finalChain s, digest := serialize (finalChain s), finalized := true } := by
  unfold finalizeEffect at h
  split at h
  · exact ⟨by assumption, by simpa using h.symm⟩
  · cases h

/-- Everything the engine's move can be: the completion of a decoded `PENDING`, or a stop that no run reaches. -/
theorem engineMove_cases (s : State) :
    (∃ w i, s.pending = some w ∧ decodeCmd w = .ok i ∧ engineMove s = .run i s) ∨
    engineMove s = .stop (.nothingToComplete s.pending) := by
  unfold engineMove
  cases hp : s.pending with
  | none => exact .inr rfl
  | some w =>
    cases hd : decodeCmd w with
    | ok i => exact .inl ⟨w, i, rfl, hd, by simp only [hd]⟩
    | error c => exact .inr (by simp only [hd])

/-- The run's lines are done exactly where the port is empty or a reset comes first. -/
theorem lineLeft_eq_false {port : List Req} : lineLeft port = false ↔ port = [] ∨ ∃ rest, port = .reset :: rest := by
  rcases port with _ | ⟨_ | _ | _, rest⟩ <;> simp [lineLeft]

/-- After a fault, with no reset requested, the step stops. -/
theorem fetch_halted {s : State} {m : FaultMark} (hf : s.fault = some m) (ha : afterReset s.port = none) :
    fetch s = .stop (.halted m) := by
  simp [fetch, hf, ha]

/-- After a fault the step is the first reset requested. -/
theorem fetch_reset {s : State} {m : FaultMark} {rest : List Req} (hf : s.fault = some m) (ha : afterReset s.port = some rest) :
    fetch s = .settle (s.applyReset rest) := by
  simp [fetch, hf, ha]

/-- With nothing requested and nothing in flight the step holds the state. -/
theorem fetch_idle {s : State} (hf : s.fault = none) (hp : s.port = []) (hb : s.busy = false) : fetch s = .settle s := by
  simp [fetch, hf, hp, hb]

/-- The step is the engine's where a command is in flight and no request comes first. -/
theorem fetch_engine {s : State} (hf : s.fault = none) (hb : s.busy = true)
    (hp : s.port = [] ∨ ∃ r rest, s.port = r :: rest ∧ (isCommandWrite r = true ∨ s.lat = 0)) : fetch s = engineMove s := by
  rcases hp with hp | ⟨r, rest, hp, h⟩
  · simp [fetch, hf, hb, hp]
  · rcases h with h | h <;> simp [fetch, hf, hb, hp, h]

/-- The step is the first request's where no command is in flight, or the request needs none completed and the latency has not gone. -/
theorem fetch_request {s : State} {r : Req} {rest : List Req} (hf : s.fault = none) (hp : s.port = r :: rest)
    (hb : s.busy = true → isCommandWrite r = false ∧ s.lat ≠ 0) : fetch s = requestMove r (s.take rest) := by
  cases h : s.busy with
  | false => simp [fetch, hf, hp, h]
  | true => simp [fetch, hf, hp, h, hb h]

/-- Every state is in exactly one of the five cases above. -/
theorem fetch_cases (s : State) :
    (∃ m, s.fault = some m ∧ afterReset s.port = none) ∨
    (∃ m rest, s.fault = some m ∧ afterReset s.port = some rest) ∨
    (s.fault = none ∧ s.port = [] ∧ s.busy = false) ∨
    (s.fault = none ∧ s.busy = true ∧
      (s.port = [] ∨ ∃ r rest, s.port = r :: rest ∧ (isCommandWrite r = true ∨ s.lat = 0))) ∨
    (s.fault = none ∧ ∃ r rest, s.port = r :: rest ∧ (s.busy = true → isCommandWrite r = false ∧ s.lat ≠ 0)) := by
  cases hf : s.fault with
  | some m =>
    cases ha : afterReset s.port with
    | none => exact .inl ⟨m, rfl, rfl⟩
    | some rest => exact .inr (.inl ⟨m, rest, rfl, rfl⟩)
  | none =>
    refine .inr (.inr ?_)
    cases hp : s.port with
    | nil =>
      cases hb : s.busy with
      | false => exact .inl ⟨rfl, rfl, rfl⟩
      | true => exact .inr (.inl ⟨rfl, rfl, .inl rfl⟩)
    | cons r rest =>
      by_cases hc : s.busy = true ∧ (isCommandWrite r = true ∨ s.lat = 0)
      · exact .inr (.inl ⟨rfl, hc.1, .inr ⟨r, rest, rfl, hc.2⟩⟩)
      · exact .inr (.inr ⟨rfl, r, rest, rfl, fun hb => by simpa [hb] using hc⟩)

/-- Everything a step can answer as a next state: a reset after a fault, an idle step, the completion of `PENDING`, or the first request's
move, where a command write needs `BUSY = 0`. -/
theorem step_cases {s t : State} (h : step s = .next t) :
    (∃ m rest, s.fault = some m ∧ afterReset s.port = some rest ∧ t = s.applyReset rest) ∨
    (s.fault = none ∧ s.port = [] ∧ s.busy = false ∧ t = s) ∨
    (s.fault = none ∧ s.busy = true ∧ ∃ w i, s.pending = some w ∧ decodeCmd w = .ok i ∧ exec i s = .next t) ∨
    (s.fault = none ∧ ∃ r rest, s.port = r :: rest ∧ (s.busy = true → isCommandWrite r = false ∧ s.lat ≠ 0) ∧
      ((∃ tr i, r = .txn tr ∧ decode tr = .ok i ∧ exec i (s.take rest) = .next t) ∨
       (∃ tr c, r = .txn tr ∧ decode tr = .error c ∧ t = (s.take rest).raise c (transactionInfo tr)) ∨
       (r = .wait ∧ t = pollWait (s.take rest)) ∨
       (r = .reset ∧ t = (s.take rest).applyReset rest))) := by
  unfold step at h
  rcases fetch_cases s with ⟨m, hf, ha⟩ | ⟨m, rest, hf, ha⟩ | ⟨hf, hp, hb⟩ | ⟨hf, hb, hp⟩ | ⟨hf, r, rest, hp, hb⟩
  · rw [fetch_halted hf ha] at h; cases h
  · rw [fetch_reset hf ha] at h
    exact .inl ⟨m, rest, hf, ha, by simpa [answer] using h.symm⟩
  · rw [fetch_idle hf hp hb] at h
    exact .inr (.inl ⟨hf, hp, hb, by simpa [answer] using h.symm⟩)
  · rw [fetch_engine hf hb hp] at h
    rcases engineMove_cases s with ⟨w, i, hw, hd, he⟩ | he
    · rw [he] at h; exact .inr (.inr (.inl ⟨hf, hb, w, i, hw, hd, h⟩))
    · rw [he] at h; cases h
  · rw [fetch_request hf hp hb] at h
    refine .inr (.inr (.inr ⟨hf, r, rest, hp, hb, ?_⟩))
    cases r with
    | txn tr =>
      simp only [requestMove] at h
      cases hd : decode tr with
      | ok i => rw [hd] at h; exact .inl ⟨tr, i, rfl, hd, h⟩
      | error c => rw [hd] at h; exact .inr (.inl ⟨tr, c, rfl, hd, by simpa [answer] using h.symm⟩)
    | wait => exact .inr (.inr (.inl ⟨rfl, by simpa [requestMove, answer] using h.symm⟩))
    | reset => exact .inr (.inr (.inr ⟨rfl, by simpa [requestMove, answer] using h.symm⟩))

end Sys2Proof.Laws
end

