-- ==== Sys2Proof/Laws/PerInstr.lean ====
section
/-! SUPPORT. A family of statements about every operation as syntax: its encoding is no reserved word or address. -/

namespace Sys2Proof.Laws.EncodesDefined

/-- The transaction an operation is encoded as passes every check of 30_encoding.md R56 to R58. -/
def Statement (i : Instr) : Prop := (encode i).wellFormed = true

theorem init : Statement .init := by unfold Statement; decide

theorem absorb (b : Byte) : Statement (.absorb b) := by
  revert b; unfold Statement; decide

theorem finalize : Statement .finalize := by unfold Statement; decide

theorem rdstatus : Statement .rdstatus := by unfold Statement; decide

theorem rddigest (i : BitVec 3) : Statement (.rddigest i) := by
  revert i; unfold Statement; decide

theorem rdhex (j : BitVec 6) : Statement (.rdhex j) := by
  revert j; unfold Statement; decide

end Sys2Proof.Laws.EncodesDefined
end

