-- ==== Sys2Proof/Laws/WordFunctions.lean ====
section
/-! SUPPORT. The other form of `Maj` that 41_compress.md R89 allows. -/

namespace Sys2Proof.Laws

open Sys2Proof.Machine

/-- R89: the source's form of `Maj` and the exclusive-or form are equal bit for bit. -/
theorem maj_eq_xor (x y z : Word) : maj x y z = (x &&& y) ^^^ (x &&& z) ^^^ (y &&& z) := by
  apply BitVec.eq_of_getLsbD_eq
  intro i _
  simp only [maj, BitVec.getLsbD_or, BitVec.getLsbD_and, BitVec.getLsbD_xor]
  cases x.getLsbD i <;> cases y.getLsbD i <;> cases z.getLsbD i <;> rfl

end Sys2Proof.Laws
end

