-- ==== Sys2Proof/Tests/Slice0.lean ====
section
/-! SUPPORT. Tests of the model on fixed values, each expected value taken from the spec's tables (95_test_vectors.md and the examples of
the rules), and for each statement with hypotheses a witness that meets them. -/

namespace Sys2Proof.Tests

open Sys2Proof.Machine

/-! ### Helpers -/

/-- One field of the state an outcome answers; none where it stops. -/
def seen {α : Type} (f : State → α) : Result → Option α
  | .next s => some (f s)
  | .fault _ => none
  | .refused _ => none

/-- The stop an outcome answers; none where it goes on. -/
def stopped : Result → Option Fault
  | .next _ => none
  | .fault f => some f
  | .refused _ => none

/-- The ASCII bytes of a text. -/
def ascii (cs : List Char) : List Byte := cs.map fun c => BitVec.ofNat 8 c.toNat

/-- Reset with requests in the port. -/
def ready (port : List Req) : State := { State.reset with port := port }

/-- A command in flight with `n` message bytes 0x61 buffered, all else as after reset. -/
def inFlight (w : CmdWord) (n : Nat) : State :=
  { State.reset with
    buf := blockOf (List.replicate n 0x61#8), fill := BitVec.ofNat 7 n, busy := true, pending := some w }

/-- `H` and `DIGEST` after "abc" (95_test_vectors.md S2). -/
def abcChain : Chain := #v[0xba7816bf#32, 0x8f01cfea#32, 0x414140de#32, 0x5dae2223#32, 0xb00361a3#32, 0x96177a9c#32, 0xb410ff61#32,
  0xf20015ad#32]

/-- The end state of 95_test_vectors.md P1: phase 1, idle. -/
def finalized : State :=
  { State.reset with
    h := abcChain, buf := blockOf [0x61#8, 0x62#8, 0x63#8], fill := 3#7, finalized := true, digest := serialize abcChain }

/-! ### Well-formedness: one ill-formed term for each check -/

theorem test_wf_refuses_reserved_opcode :
    CmdWord.opcodeDefined 0x0000#16 = false ∧ CmdWord.opcodeDefined 0x0400#16 = false ∧ CmdWord.opcodeDefined 0xffff#16 = false ∧
    Transaction.wellFormed (.cmd 0x0000#16) = false := by decide

theorem test_wf_refuses_reserved_operand :
    CmdWord.operandDefined 0x0101#16 = false ∧ CmdWord.operandDefined 0x03ff#16 = false ∧ CmdWord.operandDefined 0x02ff#16 = true ∧
    Transaction.wellFormed (.cmd 0x0301#16) = false := by decide

theorem test_wf_refuses_reserved_address :
    Addr.defined 0x01#7 = false ∧ Addr.defined 0x07#7 = false ∧ Addr.defined 0x10#7 = false ∧ Addr.defined 0x3f#7 = false ∧
    Transaction.wellFormed (.rd 0x20#7) = false := by decide

theorem test_wf_refuses_line_operands :
    Line.expand (.absorb 256) = none ∧ Line.expand (.rddigest 8) = none ∧ Line.expand (.rdhex 64) = none ∧
    Line.expand (.rawCmd 65536) = none ∧ Line.expand (.rawRd 128) = none := by decide

/-! ### Decoding: words written out from 30_encoding.md R48 to R53, and the table of 95_test_vectors.md section 9 -/

theorem test_decode_init : decodeCmd 0b0000000100000000#16 = .ok .init := by decide

theorem test_decode_absorb :
    decodeCmd 0b0000001000000000#16 = .ok (.absorb 0x00#8) ∧ decodeCmd 0b0000001001100001#16 = .ok (.absorb 0x61#8) ∧
    decodeCmd 0b0000001011111111#16 = .ok (.absorb 0xff#8) := by decide

theorem test_decode_finalize : decodeCmd 0b0000001100000000#16 = .ok .finalize := by decide

theorem test_decode_rdstatus : decodeRd 0b0000000#7 = .ok .rdstatus := by decide

theorem test_decode_rddigest :
    decodeRd 0b0001000#7 = .ok (.rddigest 0#3) ∧ decodeRd 0b0001101#7 = .ok (.rddigest 5#3) ∧
    decodeRd 0b0001111#7 = .ok (.rddigest 7#3) := by decide

theorem test_decode_rdhex :
    decodeRd 0b1000000#7 = .ok (.rdhex 0#6) ∧ decodeRd 0b1111110#7 = .ok (.rdhex 62#6) ∧
    decodeRd 0b1111111#7 = .ok (.rdhex 63#6) := by decide

theorem test_decode_reserved :
    [0x0000#16, 0x00ff#16, 0x0400#16, 0x1002#16, 0xff00#16, 0xffff#16].map decodeCmd = List.replicate 6 (.error .rsvdOpcode) ∧
    [0x0101#16, 0x01ff#16, 0x0301#16].map decodeCmd = List.replicate 3 (.error .rsvdOperand) ∧
    [0x01#7, 0x07#7, 0x10#7, 0x3f#7].map decodeRd = List.replicate 4 (.error .rsvdAddress) := by decide

/-- The read-address counts of 30_encoding.md R59. -/
theorem test_address_counts :
    ((List.range 128).countP fun a => Addr.defined (BitVec.ofNat 7 a)) = 73 ∧
    ((List.range 128).countP fun a => !Addr.defined (BitVec.ofNat 7 a)) = 55 := by decide +kernel

/-- The opcode counts of 30_encoding.md R56. -/
theorem test_opcode_counts :
    ((List.range 256).countP fun op => CmdWord.opcodeDefined (BitVec.ofNat 16 (256 * op))) = 3 ∧
    ((List.range 256).countP fun op => !CmdWord.opcodeDefined (BitVec.ofNat 16 (256 * op))) = 253 := by decide +kernel

theorem test_table_words :
    decodeTableWord 16 0x0100 = some .init ∧ decodeTableWord 16 0x0200 = some (.absorb 0#8) ∧
    decodeTableWord 16 0x0300 = some .finalize ∧ decodeTableWord 8 0x00 = some .rdstatus ∧
    decodeTableWord 8 0x08 = some (.rddigest 0#3) ∧ decodeTableWord 8 0x40 = some (.rdhex 0#6) ∧
    decodeTableWord 8 0x80 = none ∧ decodeTableWord 16 0x0101 = none := by decide

/-! ### Word functions (95_test_vectors.md section 2) -/

theorem test_sigmas :
    [sig0 0x12345678#32, sig1 0x12345678#32, sum0 0x12345678#32, sum1 0x12345678#32] =
      [0xe7fce6ee#32, 0xa1f78649#32, 0x66146474#32, 0x3561abda#32] ∧
    [sig0 0xffffffff#32, sig1 0xffffffff#32, sum0 0xffffffff#32, sum1 0xffffffff#32] =
      [0x1fffffff#32, 0x003fffff#32, 0xffffffff#32, 0xffffffff#32] := by decide

theorem test_choose_majority :
    ch 0xf0f0f0f0#32 0xff00ff00#32 0xaaaaaaaa#32 = 0xfa0afa0a#32 ∧ maj 0xf0f0f0f0#32 0xff00ff00#32 0xaaaaaaaa#32 = 0xfaa0faa0#32 := by
  decide

/-! ### Compression (95_test_vectors.md sections 3 to 5) -/

/-- V3.3: the wrap of the four-term sum. -/
theorem test_schedule_wraps :
    ((schedule (Vector.replicate 64 0xff#8)).drop 16).take 4 = [0x203ffffc#32, 0x203ffffc#32, 0x20099be4#32, 0x20099be4#32] := by
  decide +kernel

theorem test_compress_zeros :
    compress iv (Vector.replicate 64 0x00#8) =
      #v[0xda5698be#32, 0x17b9b469#32, 0x62335799#32, 0x779fbeca#32, 0x8ce5d491#32, 0xc0d26243#32, 0xbafef9ea#32, 0x1837a9d8#32] := by
  decide +kernel

theorem test_compress_ones :
    compress iv (Vector.replicate 64 0xff#8) =
      #v[0xef0c748d#32, 0xf4da50a8#32, 0xd6c43c01#32, 0x3edc3ce7#32, 0x6c9d9fa9#32, 0xa1458ade#32, 0x56eb86c0#32, 0xa64492d2#32] := by
  decide +kernel

/-- The round-serial datapath of 41_compress.md R103 and R104 on the same block. -/
theorem test_compress_serial_ones :
    compressSerial iv (Vector.replicate 64 0xff#8) =
      #v[0xef0c748d#32, 0xf4da50a8#32, 0xd6c43c01#32, 0x3edc3ce7#32, 0x6c9d9fa9#32, 0xa1458ade#32, 0x56eb86c0#32, 0xa64492d2#32] := by
  decide +kernel

/-! ### The instructions -/

/-- 40_init_absorb.md R70: INIT after FINALIZE clears the phase and keeps DIGEST. -/
theorem test_init_completes :
    seen (fun t => (t.h, t.fill, t.finalized, t.busy, t.digest)) (exec .init { finalized with busy := true, pending := some 0x0100#16 }) =
      some (iv, 0#7, false, false, serialize abcChain) := by decide +kernel

/-- 95_test_vectors.md section 9: INIT is accepted in phase 1, and STATUS is then 3 (section 11). -/
theorem test_init_accepted_when_finalized :
    seen (fun t => (t.busy, t.pending, t.fault, statusWord t)) (exec .init finalized) =
      some (true, some 0x0100#16, none, 0x00000003#32) := by decide +kernel

/-- 40_init_absorb.md R72, example: from reset, ABSORB 0x61. -/
theorem test_absorb_appends :
    seen (fun t => (t.buf[0], t.fill, t.bitcnt)) (perform (.absorb 0x61#8) State.reset) = some (0x61#8, 1#7, 0#64) := by decide +kernel

/-- 40_init_absorb.md R72, example: the 64th ABSORB 0x61. -/
theorem test_absorb_completes_block :
    seen (fun t => (t.h, t.fill, t.bitcnt)) (exec (.absorb 0x61#8) (inFlight 0x0261#16 63)) =
      some (#v[0xdf5bb81c#32, 0xe81e0626#32, 0xfb45a894#32, 0x4fd40f31#32, 0xb25e6816#32, 0xd6d499c1#32, 0xab904929#32, 0x00635e66#32],
        0#7, 512#64) := by decide +kernel

/-- 95_test_vectors.md section 7: 55 bytes, one block; the first digest word. -/
theorem test_finalize_one_block :
    seen (fun t => (digestWord t.digest 0#3, t.fill, t.finalized)) (exec .finalize (inFlight 0x0300#16 55)) =
      some (0x9f4390f8#32, 55#7, true) := by decide +kernel

/-- 95_test_vectors.md section 7: 56 bytes, two blocks; the first digest word. -/
theorem test_finalize_two_blocks :
    seen (fun t => (digestWord t.digest 0#3, t.fill, t.finalized)) (exec .finalize (inFlight 0x0300#16 56)) =
      some (0xb35439a4#32, 56#7, true) := by decide +kernel

/-- 95_test_vectors.md S2: "abc" from reset. -/
theorem test_hash_abc :
    seen (fun t => t.digest) (performAll (hashOperations (ascii ['a', 'b', 'c'])) State.reset) = some (serialize abcChain) := by
  decide +kernel

/-- 42_finalize.md R119: the empty message from reset, the first and the last digest word. -/
theorem test_hash_empty :
    seen (fun t => (digestWord t.digest 0#3, digestWord t.digest 7#3)) (perform .finalize State.reset) =
      some (0xe3b0c442#32, 0x7852b855#32) := by decide +kernel

/-- 95_test_vectors.md section 11. -/
theorem test_rdstatus_values :
    seen (fun t => t.out) (exec .rdstatus State.reset) = some [0x00000000#32] ∧
    seen (fun t => t.out) (exec .rdstatus (inFlight 0x0300#16 3)) = some [0x00000001#32] ∧
    seen (fun t => t.out) (exec .rdstatus finalized) = some [0x00000002#32] := by decide +kernel

/-- 95_test_vectors.md section 8. -/
theorem test_rddigest_values :
    seen (fun t => t.out) (exec (.rddigest 0#3) finalized) = some [0xba7816bf#32] ∧
    seen (fun t => t.out) (exec (.rddigest 7#3) finalized) = some [0xf20015ad#32] := by decide +kernel

/-- 95_test_vectors.md section 8. -/
theorem test_rdhex_values :
    [0#6, 1#6, 2#6, 3#6, 62#6, 63#6].map (fun j => seen (fun t => t.out) (exec (.rdhex j) finalized)) =
      [some [0x62#32], some [0x61#32], some [0x37#32], some [0x38#32], some [0x61#32], some [0x64#32]] := by decide +kernel

/-! ### Faults (95_test_vectors.md section 10) -/

theorem test_write_faults :
    [(State.reset, 0x0400#16), (State.reset, 0x0101#16), (finalized, 0x0261#16), (finalized, 0x0300#16), (finalized, 0x0301#16),
      (finalized, 0x0500#16)].map (fun p => seen (fun t => t.fault) (step { p.1 with port := [.txn (.cmd p.2)] })) =
    [some (some ⟨.rsvdOpcode, .word 0x0400#16⟩), some (some ⟨.rsvdOperand, .word 0x0101#16⟩),
      some (some ⟨.useAfterFinalize, .word 0x0261#16⟩), some (some ⟨.useAfterFinalize, .word 0x0300#16⟩),
      some (some ⟨.rsvdOperand, .word 0x0301#16⟩), some (some ⟨.rsvdOpcode, .word 0x0500#16⟩)] := by decide +kernel

theorem test_read_faults :
    [(State.reset, 0x08#7), ({ inFlight 0x0300#16 0 with lat := 1 }, 0x08#7), ({ inFlight 0x0300#16 0 with lat := 1 }, 0x20#7)].map
      (fun p => seen (fun t => t.fault) (step { p.1 with port := [.txn (.rd p.2)] })) =
    [some (some ⟨.digestNotValid, .addr 0x08#7⟩), some (some ⟨.readWhileBusy, .addr 0x08#7⟩),
      some (some ⟨.rsvdAddress, .addr 0x20#7⟩)] := by decide +kernel

theorem test_nothing_runs_after_a_fault :
    stopped (step { finalized with fault := some ⟨.useAfterFinalize, .word 0x0264#16⟩, port := [.txn (.rd 0x08#7)] }) =
      some (.halted ⟨.useAfterFinalize, .word 0x0264#16⟩) := by decide +kernel

/-! ### Steps (95_test_vectors.md P6 and section 9) -/

/-- P6: the read before the completion raises F5, the completion before the read makes the digest readable. -/
theorem test_race_of_read_and_completion :
    seen (fun t => t.fault) (step { inFlight 0x0300#16 0 with lat := 1, port := [.txn (.rd 0x08#7)] }) =
      some (some ⟨.readWhileBusy, .addr 0x08#7⟩) ∧
    seen (fun t => (digestWord t.digest 0#3, t.busy, t.port)) (step { inFlight 0x0300#16 0 with lat := 0, port := [.txn (.rd 0x08#7)] }) =
      some (0xe3b0c442#32, false, [.txn (.rd 0x08#7)]) := by decide +kernel

/-- 70_reset_and_hazards.md R165: the write stays in the port while the command in flight completes. -/
theorem test_write_is_held :
    seen (fun t => (t.fill, t.busy, t.port)) (step { inFlight 0x0261#16 3 with lat := 5, port := [.txn (.cmd 0x0300#16)] }) =
      some (4#7, false, [.txn (.cmd 0x0300#16)]) := by decide +kernel

theorem test_placed_word_runs_first :
    seen (fun t => (t.pending, t.busy)) (step (State.reset.withFetchWord 16 0x0261)) = some (some 0x0261#16, true) ∧
    seen (fun t => t.out) (step (State.reset.withFetchWord 8 0x00)) = some [0#32] := by decide +kernel

/-- 70_reset_and_hazards.md R170: a reset is no line of the run, a WAIT is one. -/
theorem test_run_ends :
    [[], [.reset, .wait], [.wait, .reset]].map (fun port => runEnd (ready port)) = [.succeeds, .succeeds, .notEnded] ∧
    runEnd { ready [] with fault := some ⟨.rsvdOpcode, .word 0x0400#16⟩ } = .fails := by decide

/-! ### Assembler (30_encoding.md R62 to R69) -/

theorem test_absorb_spellings :
    assemble ['A', 'B', 'S', 'O', 'R', 'B', ' ', '\'', 'a', '\''] = some [.txn (.cmd 0x0261#16)] ∧
    assemble ['A', 'B', 'S', 'O', 'R', 'B', ' ', '0', 'x', '6', '1'] = some [.txn (.cmd 0x0261#16)] ∧
    assemble ['A', 'B', 'S', 'O', 'R', 'B', ' ', '9', '7'] = some [.txn (.cmd 0x0261#16)] := by decide +kernel

theorem test_hash_text :
    assemble ['H', 'A', 'S', 'H', ' ', '"', 'a', '\\', 'x', '6', '2', 'c', '"', ' ', ';', 'x'] =
      some [.txn (.cmd 0x0100#16), .txn (.cmd 0x0261#16), .txn (.cmd 0x0262#16), .txn (.cmd 0x0263#16), .txn (.cmd 0x0300#16), .wait] := by
  decide +kernel

theorem test_absorbx_needs_pairs :
    assemble ['A', 'B', 'S', 'O', 'R', 'B', 'X', ' ', '6', '1', '6'] = none := by decide +kernel

/-! ### Witnesses: for each statement with hypotheses, values that meet all of them -/

theorem witness_EncodeInvertsDecode : decode (.cmd 0x02ff#16) = .ok (.absorb 0xff#8) ∧ decode (.rd 0x7f#7) = .ok (.rdhex 63#6) := by
  decide

theorem witness_RotateMovesEveryBit : (0 < 1 ∧ 1 < 32 ∧ 31 < 32) ∧ (0 < 31 ∧ 31 < 32 ∧ 0 < 32) := by decide

/-- The positions at which a shift brings in a zero, and those just below. -/
theorem witness_SigmaFunctionsBitwise : (28 < 32 ∧ 28 + 3 ≤ 31) ∧ (29 < 32 ∧ ¬29 + 3 ≤ 31) ∧ (21 + 10 ≤ 31 ∧ ¬22 + 10 ≤ 31) := by decide

theorem witness_ChooseAndMajorityBitwise : 0 < 32 ∧ 31 < 32 := by decide

theorem witness_ConstantsAreRootsOfPrimes : 0 < 64 ∧ 63 < 64 := by decide

theorem witness_ScheduleFollowsRecurrence : (16 ≤ 16 ∧ 16 < 64) ∧ (16 ≤ 63 ∧ 63 < 64) := by decide

theorem witness_CompressRunsSixtyFourRounds : 0 < 64 ∧ 63 < 64 := by decide

theorem witness_PaddingBlocksByFill : (0 ≤ 55 ∧ 55 ≤ 55) ∧ (56 ≤ 56 ∧ 56 ≤ 63) ∧ (56 ≤ 63 ∧ 63 ≤ 63) := by decide

theorem witness_LengthFieldCountsMessageBits :
    (([.init] : List Instr) = [.init] ∧ finalized.fault = none ∧ finalized.busy = false) ∧ ([] : List Instr) = [] := by decide

theorem witness_DigestSerializesBigEndian :
    abcChain[0] = 0xba7816bf#32 ∧ (inFlight 0x0300#16 56).busy = true ∧ (inFlight 0x0300#16 56).pending = some 0x0300#16 ∧
    ∃ t, exec .finalize (inFlight 0x0300#16 56) = .next t :=
  ⟨by decide, by decide, by decide, _, rfl⟩

theorem witness_HexCharactersAreLowercaseNibbles :
    ((9#4).toNat ≤ 9 ∧ 10 ≤ (10#4).toNat) ∧
    (0xb#4).toNat = ((serialize abcChain)[0]).toNat / 16 ∧ (0xa#4).toNat = ((serialize abcChain)[0]).toNat % 16 := by decide

theorem witness_EncodeHexIsInjective : encodeHex State.reset.digest = encodeHex (Vector.replicate 32 0x00#8) := rfl

theorem witness_ResetRequestRestoresEngine :
    (∃ s : State, s.port = [.reset] ∧ s.fault = none ∧ s.busy = true ∧ s.lat ≠ 0) ∧
    (∃ s : State, s.port = [.reset] ∧ s.fault ≠ none) :=
  ⟨⟨{ inFlight 0x0261#16 3 with lat := 1, port := [.reset] }, by decide⟩,
   ⟨{ finalized with fault := some ⟨.useAfterFinalize, .word 0x0261#16⟩, port := [.reset] }, by decide⟩⟩

theorem witness_InitAcceptedThenCompleted :
    (finalized.fault = none ∧ finalized.busy = false) ∧
    (inFlight 0x0100#16 63).fault = none ∧ (inFlight 0x0100#16 63).busy = true ∧ (inFlight 0x0100#16 63).pending = some 0x0100#16 := by
  decide

theorem witness_AbsorbAcceptedThenCompleted :
    (State.reset.fault = none ∧ State.reset.busy = false ∧ State.reset.finalized = false) ∧
    [0, 62, 63].all (fun n =>
      (inFlight 0x0261#16 n).fault = none ∧ (inFlight 0x0261#16 n).busy = true ∧
      (inFlight 0x0261#16 n).pending = some (0x0200#16 + (0x61#8).setWidth 16) ∧ (inFlight 0x0261#16 n).fill.toNat < 64) = true := by
  decide

theorem witness_FinalizeAcceptedThenCompleted :
    (State.reset.fault = none ∧ State.reset.busy = false ∧ State.reset.finalized = false) ∧
    [0, 55].all (fun n => (inFlight 0x0300#16 n).pending = some 0x0300#16 ∧ (inFlight 0x0300#16 n).busy = true ∧
      (inFlight 0x0300#16 n).fill.toNat ≤ 55) = true ∧
    [56, 63].all (fun n => (inFlight 0x0300#16 n).pending = some 0x0300#16 ∧ (inFlight 0x0300#16 n).busy = true ∧
      56 ≤ (inFlight 0x0300#16 n).fill.toNat ∧ (inFlight 0x0300#16 n).fill.toNat ≤ 63) = true := by decide

theorem witness_WriteHeldWhileBusy :
    (encode .finalize = .cmd 0x0300#16 ∧ (inFlight 0x0261#16 63).pending ≠ some 0x0300#16) ∧
    ∃ s : State, s.fault = none ∧ s.busy = true ∧ s.fill.toNat ≤ 63 ∧ s.port = [.txn (.cmd 0x0300#16)] ∧
      s.pending = some 0x0261#16 ∧ decodeCmd 0x0261#16 = .ok (.absorb 0x61#8) :=
  ⟨by decide, { inFlight 0x0261#16 63 with port := [.txn (.cmd 0x0300#16)] }, by decide⟩

theorem witness_RdstatusReturnsStatus : (inFlight 0x0261#16 3).fault = none ∧ finalized.fault = none := by decide

theorem witness_RddigestReturnsDigestWord : finalized.fault = none ∧ finalized.busy = false ∧ finalized.finalized = true := by decide

/-- An even and an odd character, a digit and a letter. -/
theorem witness_RdhexReturnsHexCharacter :
    finalized.fault = none ∧ finalized.busy = false ∧ finalized.finalized = true ∧
    0xb = finalized.digest[0].toNat / 16 ∧ 0x8 = finalized.digest[1].toNat % 16 := by decide

theorem witness_UseAfterFinalizeFaults : finalized.fault = none ∧ finalized.finalized = true ∧ finalized.busy = false := by decide

theorem witness_DigestReadFaults :
    (encode (.rddigest 7#3) = .rd 0x0f#7 ∧ encode (.rdhex 0#6) = .rd 0x40#7) ∧
    ((inFlight 0x0300#16 0).fault = none ∧ (inFlight 0x0300#16 0).busy = true) ∧
    State.reset.fault = none ∧ State.reset.busy = false ∧ State.reset.finalized = false := by decide

theorem witness_WriteFaultsInPriorityOrder :
    (State.reset.fault = none ∧ State.reset.busy = false ∧ (ready [.txn (.cmd 0x0400#16)]).port = [.txn (.cmd 0x0400#16)]) ∧
    CmdWord.opcodeDefined 0x0400#16 = false ∧
    (CmdWord.opcodeDefined 0x0301#16 = true ∧ CmdWord.operandDefined 0x0301#16 = false) ∧
    CmdWord.opcodeDefined 0x0300#16 = true ∧ CmdWord.operandDefined 0x0300#16 = true ∧ (0x0300#16 : CmdWord) ≠ 0x0100#16 ∧
      finalized.finalized = true := by decide

theorem witness_ReadFaultsInPriorityOrder :
    (∃ s : State, s.fault = none ∧ s.busy = true ∧ s.lat ≠ 0 ∧ s.port = [.txn (.rd 0x08#7)]) ∧
    (∃ s : State, s.fault = none ∧ s.busy = false ∧ s.finalized = false ∧ s.port = [.txn (.rd 0x40#7)]) ∧
    Addr.defined 0x3f#7 = false ∧ (Addr.defined 0x08#7 = true ∧ (0x08#7 : Addr) ≠ 0#7) ∧ Addr.defined 0x40#7 = true :=
  ⟨⟨{ inFlight 0x0300#16 0 with lat := 1, port := [.txn (.rd 0x08#7)] }, by decide⟩, ⟨ready [.txn (.rd 0x40#7)], by decide⟩, by decide⟩

theorem witness_FaultEndsTheRun :
    ∃ s : State, s.fault = some ⟨.rsvdOpcode, .word 0x0400#16⟩ ∧ Req.reset ∉ [Req.wait] ∧ s.port = [.wait] ++ .reset :: [] :=
  ⟨{ State.reset with fault := some ⟨.rsvdOpcode, .word 0x0400#16⟩, port := [.wait, .reset] }, by decide⟩

theorem witness_FaultEndsTheRun_no_reset :
    ∃ s : State, s.fault = some ⟨.rsvdOpcode, .word 0x0400#16⟩ ∧ Req.reset ∉ s.port :=
  ⟨{ State.reset with fault := some ⟨.rsvdOpcode, .word 0x0400#16⟩, port := [.wait] }, by decide⟩

theorem witness_InitFrame : (∃ t, exec .init finalized = .next t) ∧ ∃ t, exec .init (inFlight 0x0100#16 3) = .next t :=
  ⟨⟨_, rfl⟩, ⟨_, rfl⟩⟩

theorem witness_AbsorbFrame :
    (∃ t, exec (.absorb 0x61#8) State.reset = .next t) ∧ (∃ t, exec (.absorb 0x61#8) finalized = .next t) ∧
    ∃ t, exec (.absorb 0x61#8) (inFlight 0x0261#16 3) = .next t :=
  ⟨⟨_, rfl⟩, ⟨_, rfl⟩, ⟨_, rfl⟩⟩

theorem witness_FinalizeFrame :
    (∃ t, exec .finalize State.reset = .next t) ∧ (∃ t, exec .finalize finalized = .next t) ∧
    ∃ t, exec .finalize (inFlight 0x0300#16 56) = .next t :=
  ⟨⟨_, rfl⟩, ⟨_, rfl⟩, ⟨_, rfl⟩⟩

theorem witness_ReadsChangeNoEngineState :
    (encode (.rddigest 0#3) = .rd 0x08#7 ∧ ∃ t, exec (.rddigest 0#3) State.reset = .next t) ∧
    encode (.rdhex 0#6) = .rd 0x40#7 ∧ ∃ t, exec (.rdhex 0#6) finalized = .next t :=
  ⟨⟨rfl, _, rfl⟩, rfl, _, rfl⟩

/-- The step's clause with a reset further back, and with a reset first that the completion comes before. -/
theorem witness_OnlyFinalizeWritesDigest :
    (∃ t, exec .finalize (inFlight 0x0300#16 0) = .next t ∧ t.digest ≠ (inFlight 0x0300#16 0).digest) ∧
    (∃ s t : State, s.port = [.wait, .reset] ∧ step s = .next t ∧ t.digest ≠ s.digest ∧ s.fault = none ∧
      s.port.head? ≠ some .reset) ∧
    ∃ s t : State, s.port = [.reset] ∧ step s = .next t ∧ t.digest ≠ s.digest ∧ s.fault = none ∧ s.busy = true ∧ s.lat = 0 :=
  ⟨⟨_, rfl, by decide +kernel⟩,
   ⟨{ inFlight 0x0300#16 0 with port := [.wait, .reset] }, _, rfl, rfl, by decide +kernel, rfl, by decide⟩,
   ⟨{ inFlight 0x0300#16 0 with port := [.reset] }, _, rfl, rfl, by decide +kernel, rfl, rfl, rfl⟩⟩

theorem witness_WritersOfPhaseAndChain :
    (∃ t, exec .finalize (inFlight 0x0300#16 0) = .next t ∧ (inFlight 0x0300#16 0).finalized = false ∧ t.finalized = true) ∧
    (∃ t, exec .init { finalized with busy := true, pending := some 0x0100#16 } = .next t ∧ t.finalized = false) ∧
    ∃ t, exec (.absorb 0x61#8) (inFlight 0x0261#16 63) = .next t ∧ t.h ≠ (inFlight 0x0261#16 63).h :=
  ⟨⟨_, rfl, rfl, rfl⟩, ⟨_, rfl, rfl⟩, ⟨_, rfl, by decide +kernel⟩⟩

theorem witness_StepRunsRequestedInstruction :
    (∃ s : State, s.fault = none ∧ s.port = [.txn (.cmd 0x0100#16)] ∧ decode (.cmd 0x0100#16) = .ok .init ∧ s.busy = false) ∧
    ∃ s : State, s.fault = none ∧ s.port = [.txn (.rd 0x00#7)] ∧ decode (.rd 0x00#7) = .ok .rdstatus ∧ s.busy = true ∧ s.lat ≠ 0 :=
  ⟨⟨ready [.txn (.cmd 0x0100#16)], by decide⟩, ⟨{ inFlight 0x0261#16 0 with lat := 1, port := [.txn (.rd 0x00#7)] }, by decide⟩⟩

theorem witness_StepCompletesPendingCommand :
    decodeCmd 0x0261#16 = .ok (.absorb 0x61#8) ∧
    [[], [.txn (.cmd 0x0300#16)], [.txn (.rd 0x00#7)]].all (fun port =>
      let s : State := { inFlight 0x0261#16 3 with port := port }
      s.fault = none ∧ s.busy = true ∧ s.pending = some 0x0261#16 ∧ s.lat = 0) = true := by decide

theorem witness_PlacedWordRunsNext : decodeTableWord 16 0x0300 = some .finalize ∧ decodeTableWord 8 0x7f = some (.rdhex 63#6) := by
  decide

theorem witness_EitherStepMayComeFirst :
    ∃ s : State, s.fault = none ∧ s.busy = true ∧ s.port = [.txn (.rd 0x08#7)] ∧ decodeRd 0x08#7 = .ok (.rddigest 0#3) ∧
      s.pending = some 0x0300#16 ∧ decodeCmd 0x0300#16 = .ok .finalize :=
  ⟨{ inFlight 0x0300#16 0 with port := [.txn (.rd 0x08#7)] }, by decide⟩

theorem witness_WaitPollsStatus :
    (∃ s : State, s.fault = none ∧ s.port = [.wait] ∧ s.busy = false) ∧
    ∃ s : State, s.fault = none ∧ s.port = [.wait] ∧ s.busy = true ∧ s.lat ≠ 0 :=
  ⟨⟨ready [.wait], by decide⟩, ⟨{ inFlight 0x0300#16 0 with lat := 1, port := [.wait] }, by decide⟩⟩

/-- A state of the invariants with a command in flight. -/
theorem inv_inFlight : Inv (inFlight 0x0300#16 55) :=
  ⟨by decide, rfl, by decide, fun h => absurd h (by decide), by decide⟩

/-- A state of the invariants in the finalized phase. -/
theorem inv_finalized : Inv finalized := ⟨by decide, rfl, by decide, fun _ => rfl, rfl⟩

theorem witness_EveryWaitEnds : ∃ s : State, Inv s ∧ s.fault = none ∧ s.port = [.wait] ∧ s.busy = true ∧ s.lat = 2 :=
  ⟨{ inFlight 0x0300#16 55 with lat := 2, port := [.wait] },
   ⟨inv_inFlight.fill_le, rfl, inv_inFlight.bitcnt_blocks, inv_inFlight.digest_final, inv_inFlight.pending_allowed⟩, by decide⟩

theorem witness_EveryProgramEnds : Inv { finalized with port := [.txn (.cmd 0x0100#16), .wait] } :=
  ⟨inv_finalized.fill_le, rfl, inv_finalized.bitcnt_blocks, inv_finalized.digest_final, rfl⟩

theorem witness_IdleEngineHoldsState : State.reset.fault = none ∧ State.reset.busy = false ∧ State.reset.port = [] := by decide

theorem witness_StepKeepsInvariants :
    (Inv (inFlight 0x0300#16 55) ∧ ∃ t, step (inFlight 0x0300#16 55) = .next t) ∧ Inv finalized ∧ ∃ t, step finalized = .next t :=
  ⟨⟨inv_inFlight, _, rfl⟩, inv_finalized, _, rfl⟩

theorem witness_StepStopsOnlyAfterFault : ∃ s : State, Inv s ∧ s.fault = some ⟨.useAfterFinalize, .word 0x0264#16⟩ :=
  ⟨{ finalized with fault := some ⟨.useAfterFinalize, .word 0x0264#16⟩ },
   ⟨inv_finalized.fill_le, rfl, inv_finalized.bitcnt_blocks, inv_finalized.digest_final, rfl⟩, rfl⟩

/-- Two different states that agree on what a read may show. -/
theorem witness_ReadsRevealOnlyVisibleState :
    ∃ s t s' : State, s ≠ t ∧ encode (.rddigest 0#3) = .rd 0x08#7 ∧ t.fault = s.fault ∧ t.busy = s.busy ∧ t.finalized = s.finalized ∧
      t.digest = s.digest ∧ t.out = s.out ∧ exec (.rddigest 0#3) s = .next s' :=
  ⟨finalized, { finalized with fill := 9#7 }, _, by decide, rfl, rfl, rfl, rfl, rfl, rfl, rfl⟩

/-- Two different states that differ only in the hash state, one with INIT in flight. -/
theorem witness_FinalizedHashStateUnobservable :
    ∃ s t : State, s ≠ t ∧ s.finalized = true ∧ pendingAllowed s.finalized s.pending = true ∧ SameButHashState s t :=
  ⟨{ finalized with busy := true, pending := some 0x0100#16 },
   { finalized with busy := true, pending := some 0x0100#16, h := iv, fill := 9#7 }, by decide, by decide, by decide, rfl⟩

/-- Two different states that differ only in a byte at index FILL. -/
theorem witness_BufferTailUnobservable : ∃ s t : State, s ≠ t ∧ s.fill.toNat ≤ 63 ∧ SameButBufferTail s t :=
  ⟨State.reset, { State.reset with buf := State.reset.buf.set 0 0xff#8 }, by decide, by decide, rfl,
   fun k _ h => absurd h (by simp [State.reset])⟩

theorem witness_AbsorbedMessageState :
    (([.init] : List Instr) = [.init] ∧ finalized.fault = none ∧ finalized.busy = false) ∧ ([] : List Instr) = [] := by decide

theorem witness_DigestIsHashOfPaddedMessage :
    (([.init] : List Instr) = [.init] ∧ finalized.fault = none ∧ finalized.busy = false) ∧ ([] : List Instr) = [] := by decide

theorem witness_PaddingZerosAreLeast : (55 + 1 + 0 + 8) % 64 = 0 ∧ (56 + 1 + 63 + 8) % 64 = 0 := by decide

theorem witness_ChunkingIsInvisible :
    State.reset.fault = none ∧ State.reset.busy = false ∧ State.reset.finalized = false ∧ State.reset.fill.toNat ≤ 63 := by decide

theorem witness_InitIsIdempotentAndLikeReset : finalized.fault = none ∧ finalized.busy = false := by decide

/-- The last value in range and the first out of it. -/
theorem witness_LinesExpandToTransactions : (65535 ≤ 65535 ∧ 127 ≤ 127 ∧ 255 ≤ 255 ∧ ¬256 ≤ 255) ∧ (7 ≤ 7 ∧ ¬8 ≤ 7) ∧ (63 ≤ 63 ∧ ¬64 ≤ 63) := by decide

theorem witness_InstancesAreIndependent :
    [State.reset, finalized][1]? = some finalized ∧ (∃ ys, stepInstance 1 [State.reset, finalized] = .next ys) ∧
    [inFlight 0x0300#16 0, finalized][1]? = some finalized ∧ (∃ t, step finalized = .next t) ∧
    ∃ f, step { finalized with fault := some ⟨.useAfterFinalize, .word 0x0264#16⟩ } = .fault f :=
  ⟨rfl, ⟨_, rfl⟩, rfl, ⟨_, rfl⟩, ⟨_, rfl⟩⟩

end Sys2Proof.Tests
end

namespace Sys2Proof.Proofs

open Sys2Proof.Machine

/-! ### The word functions (41_compress.md section 1) -/

theorem rotr_toNat (x : Word) (n : Nat) :
    (rotr x n).toNat = (x.toNat / 2 ^ n ||| x.toNat * 2 ^ (32 - n) % 2 ^ 32) := by
  simp [rotr, Nat.shiftRight_eq_div_pow, Nat.shiftLeft_eq]

/-- R80 read from the result's side: position `k` of the rotation shows the bit that stood `n` places above it. Below `32 - n` it is the
right shift that brings the bit, from there on the left shift. -/
theorem getLsbD_rotr (x : Word) {n k : Nat} (hn : 0 < n) (hn' : n < 32) (hk : k < 32) :
    (rotr x n).getLsbD k = x.getLsbD ((k + n) % 32) := by
  simp only [rotr, BitVec.getLsbD_or, BitVec.getLsbD_ushiftRight, BitVec.getLsbD_shiftLeft]
  by_cases hlow : k < 32 - n
  · rw [Nat.mod_eq_of_lt (by omega), Nat.add_comm n k]
    simp [hlow]
  · have hwrap : (k + n) % 32 = k - (32 - n) := by omega
    have hout : x.getLsbD (n + k) = false := BitVec.getLsbD_of_ge x _ (by omega)
    simp [hwrap, hout, hk, hlow]

/-- R81: the logical right shift brings in zeros at the top. -/
theorem getLsbD_shiftRight_word (x : Word) (n k : Nat) :
    (x >>> n).getLsbD k = (decide (k + n ≤ 31) && x.getLsbD (k + n)) := by
  rw [BitVec.getLsbD_ushiftRight, Nat.add_comm n k]
  by_cases h : k + n ≤ 31
  · simp [h]
  · simp [h, BitVec.getLsbD_of_ge x (k + n) (by omega)]

theorem getLsbD_sig0 (x : Word) {k : Nat} (hk : k < 32) :
    (sig0 x).getLsbD k = (x.getLsbD ((k + 7) % 32) ^^ (x.getLsbD ((k + 18) % 32) ^^ (decide (k + 3 ≤ 31) && x.getLsbD (k + 3)))) := by
  simp only [sig0, BitVec.getLsbD_xor, getLsbD_rotr, getLsbD_shiftRight_word, hk, Nat.reduceLT, Bool.xor_assoc]

theorem getLsbD_sig1 (x : Word) {k : Nat} (hk : k < 32) :
    (sig1 x).getLsbD k = (x.getLsbD ((k + 17) % 32) ^^ (x.getLsbD ((k + 19) % 32) ^^ (decide (k + 10 ≤ 31) && x.getLsbD (k + 10)))) := by
  simp only [sig1, BitVec.getLsbD_xor, getLsbD_rotr, getLsbD_shiftRight_word, hk, Nat.reduceLT, Bool.xor_assoc]

theorem getLsbD_sum0 (x : Word) {k : Nat} (hk : k < 32) :
    (sum0 x).getLsbD k = (x.getLsbD ((k + 2) % 32) ^^ (x.getLsbD ((k + 13) % 32) ^^ x.getLsbD ((k + 22) % 32))) := by
  simp only [sum0, BitVec.getLsbD_xor, getLsbD_rotr, hk, Nat.reduceLT, Bool.xor_assoc]

theorem getLsbD_sum1 (x : Word) {k : Nat} (hk : k < 32) :
    (sum1 x).getLsbD k = (x.getLsbD ((k + 6) % 32) ^^ (x.getLsbD ((k + 11) % 32) ^^ x.getLsbD ((k + 25) % 32))) := by
  simp only [sum1, BitVec.getLsbD_xor, getLsbD_rotr, hk, Nat.reduceLT, Bool.xor_assoc]

theorem getLsbD_ch (x y z : Word) {k : Nat} (hk : k < 32) :
    (ch x y z).getLsbD k = if x.getLsbD k = true then y.getLsbD k else z.getLsbD k := by
  simp only [ch, BitVec.getLsbD_xor, BitVec.getLsbD_and, BitVec.getLsbD_not]
  cases x.getLsbD k <;> simp [hk]

theorem getLsbD_maj_iff (x y z : Word) (k : Nat) :
    (maj x y z).getLsbD k = true ↔ 2 ≤ (x.getLsbD k).toNat + (y.getLsbD k).toNat + (z.getLsbD k).toNat := by
  simp only [maj, BitVec.getLsbD_or, BitVec.getLsbD_and]
  cases x.getLsbD k <;> cases y.getLsbD k <;> cases z.getLsbD k <;> decide

/-- Settles O5: the formula on numbers, and the bit at `k` found again `n` places below, modulo 32. -/
theorem rotateMovesEveryBit : Obligations.RotateMovesEveryBit := by
  intro x n hn hn'
  refine ⟨rotr_toNat x n, fun k hk => ?_⟩
  have hback : ((k + 32 - n) % 32 + n) % 32 = k := by omega
  rw [getLsbD_rotr x hn hn' (Nat.mod_lt _ (by decide)), hback]

/-- Settles O6, from the bits of a rotation and of a shift. -/
theorem sigmaFunctionsBitwise : Obligations.SigmaFunctionsBitwise :=
  ⟨fun x _ hk => ⟨getLsbD_sig0 x hk, getLsbD_sig1 x hk, getLsbD_sum0 x hk, getLsbD_sum1 x hk⟩, by decide⟩

/-- Settles O7, from the truth tables of `Ch` and `Maj` at one position. -/
theorem chooseAndMajorityBitwise : Obligations.ChooseAndMajorityBitwise :=
  ⟨fun x y z k hk => ⟨getLsbD_ch x y z hk, getLsbD_maj_iff x y z k⟩, fun _ _ _ => ⟨rfl, rfl⟩, by decide⟩

/-! ### The constants (41_compress.md section 2)

The primes are found by a bounded search, which `nth_eq_of_getElem?_filter_range` ties to `Nat.nth`; the roots are then checked in exact
integer arithmetic. -/

/-- A search in increasing order finds the values of `Nat.nth`: the last number searched is, if it satisfies `p`, the one that
`Nat.count` many before it precede. -/
theorem nth_eq_of_getElem?_filter_range (p : Nat → Prop) [DecidablePred p] {n t a : Nat}
    (h : ((List.range n).filter p)[t]? = some a) : Nat.nth p t = a := by
  induction n with
  | zero => simp at h
  | succ n ih =>
    rw [List.range_succ, List.filter_append, List.getElem?_append] at h
    split at h
    · exact ih h
    · next hge =>
      by_cases hp : p n
      · have hcount : ((List.range n).filter p).length = Nat.count p n := List.countP_eq_length_filter.symm
        obtain ⟨hzero, rfl⟩ : t - Nat.count p n = 0 ∧ n = a := by
          simpa [hp, hcount, List.getElem?_singleton] using h
        rw [show t = Nat.count p n by omega, Nat.nth_count hp]
      · simp [hp] at h

/-- The primes `p_0 = 2` to `p_63 = 311` that R90 takes the roots of. -/
def firstPrimes : List Nat :=
  [2, 3, 5, 7, 11, 13, 17, 19, 23, 29, 31, 37, 41, 43, 47, 53, 59, 61, 67, 71, 73, 79, 83, 89, 97, 101, 103, 107, 109, 113, 127, 131,
   137, 139, 149, 151, 157, 163, 167, 173, 179, 181, 191, 193, 197, 199, 211, 223, 227, 229, 233, 239, 241, 251, 257, 263, 269, 271,
   277, 281, 283, 293, 307, 311]

theorem filter_prime_range_eq_firstPrimes : (List.range 312).filter Nat.Prime = firstPrimes := by decide +kernel

theorem nth_prime_eq_firstPrimes {t : Nat} (ht : t < 64) : Nat.nth Nat.Prime t = firstPrimes.getD t 0 := by
  apply nth_eq_of_getElem?_filter_range Nat.Prime (n := 312)
  have hlen : t < firstPrimes.length := ht
  rw [filter_prime_range_eq_firstPrimes, List.getElem?_eq_getElem hlen, List.getD_eq_getElem _ _ hlen]

/-- `c` is the whole part of the `k`-th root of `p`, and `w` the first 32 bits of its fractional part. -/
abbrev IsRootWithFraction (k p c : Nat) (w : Word) : Prop :=
  c ^ k ≤ p ∧ p < (c + 1) ^ k ∧
    (c * 2 ^ 32 + w.toNat) ^ k ≤ p * 2 ^ (32 * k) ∧ p * 2 ^ (32 * k) < (c * 2 ^ 32 + w.toNat + 1) ^ k

/-- R90 over the listed primes: the cube root of 311 has whole part 6. -/
theorem roundConstants_cubeRoot :
    ∀ t < 64, ∃ c < 7, IsRootWithFraction 3 (firstPrimes.getD t 0) c (roundConstants.getD t 0#32) := by decide +kernel

/-- R91 over the listed primes: the square root of 19 has whole part 4. -/
theorem iv_squareRoot : ∀ i : Fin 8, ∃ c < 5, IsRootWithFraction 2 (firstPrimes.getD i.val 0) c iv[i] := by decide +kernel

/-- Settles O8: each listed prime is the `Nat.nth` one, and its root has the listed word as fraction. -/
theorem constantsAreRootsOfPrimes : Obligations.ConstantsAreRootsOfPrimes := by
  refine ⟨⟨rfl, fun t ht => ?_⟩, fun i => ?_⟩
  · obtain ⟨c, -, hroot⟩ := roundConstants_cubeRoot t ht
    rw [nth_prime_eq_firstPrimes ht]
    exact ⟨c, hroot⟩
  · obtain ⟨c, -, hroot⟩ := iv_squareRoot i
    rw [nth_prime_eq_firstPrimes (by omega)]
    exact ⟨c, hroot⟩

/-! ### The compression function (41_compress.md sections 3 to 5) -/

/-- The recurrence of R93 for `W[t]`, over a list that holds the words before it. -/
def recurrenceWord (w : List Word) (t : Nat) : Word :=
  sig1 (w.getD (t - 2) 0#32) + w.getD (t - 7) 0#32 + sig0 (w.getD (t - 15) 0#32) + w.getD (t - 16) 0#32

theorem nextWord_eq_recurrenceWord (w : List Word) : nextWord w = recurrenceWord w w.length := rfl

@[simp] theorem loadWords_length (b : Block) : (loadWords b).length = 16 := by simp [loadWords]

theorem loadWords_getD (b : Block) (t : Fin 16) :
    (loadWords b).getD t.val 0#32 = be32 b[4 * t.val] b[4 * t.val + 1] b[4 * t.val + 2] b[4 * t.val + 3] := by
  simp [loadWords]

@[simp] theorem expandWords_length (w : List Word) (n : Nat) : (expandWords w n).length = w.length + n := by
  induction n generalizing w with
  | zero => rfl
  | succ n ih => simp [expandWords, ih]; omega

/-- The expansion leaves the words it starts from as they are. -/
theorem expandWords_getD_of_lt {w : List Word} {t : Nat} (n : Nat) (ht : t < w.length) :
    (expandWords w n).getD t 0#32 = w.getD t 0#32 := by
  induction n generalizing w with
  | zero => rfl
  | succ n ih =>
    rw [expandWords, ih (by simp; omega), List.getD_append _ _ _ _ ht]

/-- The recurrence reads only words that the expansion leaves as they are. -/
theorem recurrenceWord_expandWords {w : List Word} {t : Nat} (n : Nat) (h16 : 16 ≤ t) (ht : t ≤ w.length) :
    recurrenceWord (expandWords w n) t = recurrenceWord w t := by
  have hkept (j : Nat) (hj : 0 < j) : (expandWords w n).getD (t - j) 0#32 = w.getD (t - j) 0#32 :=
    expandWords_getD_of_lt n (by omega)
  simp only [recurrenceWord, hkept, Nat.reduceLT]

/-- Every word that the expansion adds is the recurrence's over the whole result: it is appended as such, and stays. -/
theorem expandWords_getD_eq_recurrenceWord {w : List Word} {n t : Nat} (h16 : 16 ≤ w.length) (hle : w.length ≤ t)
    (hlt : t < w.length + n) : (expandWords w n).getD t 0#32 = recurrenceWord (expandWords w n) t := by
  induction n generalizing w with
  | zero => omega
  | succ n ih =>
    have hlen : (w ++ [nextWord w]).length = w.length + 1 := by simp
    by_cases hnext : t = w.length
    · subst hnext
      calc (expandWords w (n + 1)).getD w.length 0#32
          = (w ++ [nextWord w]).getD w.length 0#32 := expandWords_getD_of_lt n (by omega)
        _ = recurrenceWord w w.length := by simp [nextWord_eq_recurrenceWord]
        _ = recurrenceWord (expandWords w (n + 1)) w.length := (recurrenceWord_expandWords (n + 1) h16 le_rfl).symm
    · exact ih (by omega) (by omega) (by omega)

@[simp] theorem schedule_length (b : Block) : (schedule b).length = 64 := by simp [schedule]

theorem schedule_getD_of_lt (b : Block) (t : Fin 16) :
    (schedule b).getD t.val 0#32 = be32 b[4 * t.val] b[4 * t.val + 1] b[4 * t.val + 2] b[4 * t.val + 3] := by
  rw [schedule, expandWords_getD_of_lt 48 (by simp), loadWords_getD]

theorem schedule_getD_eq_recurrenceWord (b : Block) {t : Nat} (h16 : 16 ≤ t) (ht : t < 64) :
    (schedule b).getD t 0#32 = recurrenceWord (schedule b) t :=
  expandWords_getD_eq_recurrenceWord (by simp) (by simpa using h16) (by simpa using ht)

/-- Settles O9: the schedule is the load followed by an expansion, whose every word is the recurrence's. -/
theorem scheduleFollowsRecurrence : Obligations.ScheduleFollowsRecurrence :=
  ⟨fun b => ⟨schedule_length b, schedule_getD_of_lt b, fun _ => schedule_getD_eq_recurrenceWord b⟩, by decide +kernel⟩

/-- Settles O10, by the definitions of the load and of the round. -/
theorem roundUpdatesWorkingCopy : Obligations.RoundUpdatesWorkingCopy :=
  ⟨fun _ => rfl, fun _ _ _ _ _ _ _ _ _ _ => rfl, by decide⟩

/-- The working copy before round `t` of R98: the rounds of the first `t` pairs of a constant and a schedule word are done. -/
def workingBefore (h : Chain) (b : Block) (t : Nat) : Working :=
  ((roundConstants.zip (schedule b)).take t).foldl (fun v kw => roundStep kw.1 kw.2 v) (loadWorking h)

theorem roundConstants_length : roundConstants.length = 64 := rfl

theorem zip_roundConstants_schedule_length (b : Block) : (roundConstants.zip (schedule b)).length = 64 := by
  rw [List.length_zip, roundConstants_length, schedule_length, Nat.min_self]

theorem workingBefore_zero (h : Chain) (b : Block) : workingBefore h b 0 = loadWorking h := rfl

theorem workingBefore_succ (h : Chain) (b : Block) {t : Nat} (ht : t < 64) :
    workingBefore h b (t + 1) = roundStep (roundConstants.getD t 0#32) ((schedule b).getD t 0#32) (workingBefore h b t) := by
  have hk : t < roundConstants.length := ht.trans_eq roundConstants_length.symm
  have hw : t < (schedule b).length := ht.trans_eq (schedule_length b).symm
  have hzip : t < (roundConstants.zip (schedule b)).length := ht.trans_eq (zip_roundConstants_schedule_length b).symm
  rw [workingBefore, List.take_succ_eq_append_getElem hzip, List.foldl_append, List.getElem_zip, List.getD_eq_getElem _ _ hk,
    List.getD_eq_getElem _ _ hw]
  rfl

/-- There are exactly 64 rounds (R98). -/
theorem workingBefore_64 (h : Chain) (b : Block) : workingBefore h b 64 = rounds (schedule b) (loadWorking h) := by
  rw [workingBefore, List.take_of_length_le (zip_roundConstants_schedule_length b).le]
  rfl

theorem feedForward_toNat (h : Chain) (v : Working) :
    (feedForward h v).toList.map BitVec.toNat =
      [(h[0].toNat + v.a.toNat) % 2 ^ 32, (h[1].toNat + v.b.toNat) % 2 ^ 32, (h[2].toNat + v.c.toNat) % 2 ^ 32,
       (h[3].toNat + v.d.toNat) % 2 ^ 32, (h[4].toNat + v.e.toNat) % 2 ^ 32, (h[5].toNat + v.f.toNat) % 2 ^ 32,
       (h[6].toNat + v.g.toNat) % 2 ^ 32, (h[7].toNat + v.h.toNat) % 2 ^ 32] := rfl

/-- Settles O11: the working copies between the rounds are `workingBefore`'s, and the feed-forward adds the last of them. -/
theorem compressRunsSixtyFourRounds : Obligations.CompressRunsSixtyFourRounds := by
  intro h b
  refine ⟨workingBefore h b, workingBefore_zero h b, fun _ ht => workingBefore_succ h b ht, ?_⟩
  rw [workingBefore_64]
  exact feedForward_toNat h _

end Sys2Proof.Proofs

namespace Sys2Proof.Proofs

open Sys2Proof.Machine Sys2Proof.Laws

/-! ### Commands performed to their end on an idle engine (40_init_absorb.md R70 to R77) -/

theorem command_accepts {w : CmdWord} {ab : Bool} {eff : State → Result} {s : State} (hf : s.fault = none) (hb : s.busy = false)
    (ha : ab = false ∨ s.finalized = false) : command w ab eff s = .next (s.accept w) := by
  rcases ha with ha | ha <;> simp [command, hf, hb, ha]

theorem command_completes {w : CmdWord} {ab : Bool} {eff : State → Result} {s : State} (hf : s.fault = none) (hb : s.busy = true)
    (hp : s.pending = some w) : command w ab eff s = finish (eff s) := by
  simp [command, hf, hb, hp]

/-- On an idle engine a command that is legal there has its whole effect: it is accepted and then completes (R76, R77). -/
theorem perform_command {i : Instr} {w : CmdWord} {ab : Bool} {eff : State → Result} {s : State} (hi : exec i = command w ab eff)
    (hf : s.fault = none) (hb : s.busy = false) (ha : ab = false ∨ s.finalized = false) :
    perform i s = finish (eff (s.accept w)) := by
  simp only [perform, hi, command_accepts hf hb ha, State.accept_busy, if_true]
  exact command_completes hf rfl rfl

/-- An idle engine in the absorbing phase, with room in the buffer. -/
structure Absorbing (s : State) : Prop where
  fault : s.fault = none
  busy : s.busy = false
  finalized : s.finalized = false
  fill : s.fill.toNat < 64

theorem perform_absorb {s : State} (hs : Absorbing s) (b : Byte) :
    perform (.absorb b) s = finish (absorbEffect b (s.accept (absorbWord b))) :=
  perform_command rfl hs.fault hs.busy (.inr hs.finalized)

/-- R72 before the buffer is full: the byte is appended. -/
theorem absorbEffect_append {s : State} (b : Byte) (hk : s.fill.toNat < 63) :
    absorbEffect b s = .next { s with buf := s.buf.set s.fill.toNat b, fill := s.fill + 1#7 } := by
  have hroom : s.fill.toNat < 64 := by omega
  have hmore : ¬s.fill.toNat + 1 = 64 := by omega
  simp only [absorbEffect, dif_pos hroom, if_neg hmore]

/-- R72 at the 64th byte: the block is compressed and counted, and the buffer starts over. -/
theorem absorbEffect_block {s : State} (b : Byte) (hk : s.fill.toNat = 63) :
    absorbEffect b s = .next { s with
      h := compress s.h (s.buf.set s.fill.toNat b), buf := s.buf.set s.fill.toNat b, fill := 0#7, bitcnt := s.bitcnt + 512#64 } := by
  have hroom : s.fill.toNat < 64 := by omega
  have hfull : s.fill.toNat + 1 = 64 := by omega
  simp only [absorbEffect, dif_pos hroom, if_pos hfull]

/-- The state from which a message is absorbed: the engine idle in the absorbing phase, with the hash state of R30. -/
structure Fresh (s : State) : Prop where
  fault : s.fault = none
  busy : s.busy = false
  finalized : s.finalized = false
  h : s.h = iv
  buf : s.buf = Vector.replicate 64 0x00#8
  fill : s.fill = 0#7
  bitcnt : s.bitcnt = 0#64

theorem Fresh.absorbing {s : State} (hs : Fresh s) : Absorbing s := ⟨hs.fault, hs.busy, hs.finalized, by simp [hs.fill]⟩

theorem fresh_reset : Fresh State.reset := ⟨rfl, rfl, rfl, rfl, rfl, rfl, rfl⟩

/-- R70: INIT starts a message on any idle engine, in either phase. -/
theorem perform_init {s : State} (hf : s.fault = none) (hb : s.busy = false) : ∃ t, perform .init s = .next t ∧ Fresh t := by
  have hdone : perform .init s = finish (initEffect (s.accept 0x0100#16)) := perform_command rfl hf hb (.inl rfl)
  exact ⟨_, hdone, hf, rfl, rfl, rfl, rfl, rfl, rfl⟩

/-! ### Operations performed in order -/

theorem performAll_cons {i : Instr} {is : List Instr} {s t : State} (h : perform i s = .next t) :
    performAll (i :: is) s = performAll is t := by
  simp only [performAll, h]

theorem performAll_append {is js : List Instr} {s t : State} (h : performAll is s = .next t) :
    performAll (is ++ js) s = performAll js t := by
  induction is generalizing s with
  | nil => cases h; rfl
  | cons i is ih =>
    cases hi : perform i s with
    | next u =>
      rw [performAll_cons hi] at h
      rw [List.cons_append, performAll_cons hi, ih h]
    | fault f => simp [performAll, hi] at h
    | refused r => simp [performAll, hi] at h

/-- Both ways to start a message, INIT on an idle engine and no operation after reset, lead to a fresh engine. -/
theorem performAll_start {start : List Instr} {s : State}
    (hs : (start = [.init] ∧ s.fault = none ∧ s.busy = false) ∨ (start = [] ∧ s = State.reset)) :
    ∃ t, performAll start s = .next t ∧ Fresh t := by
  rcases hs with ⟨rfl, hf, hb⟩ | ⟨rfl, rfl⟩
  · obtain ⟨t, ht, hfresh⟩ := perform_init hf hb
    exact ⟨t, performAll_cons ht, hfresh⟩
  · exact ⟨_, rfl, fresh_reset⟩

/-- The induction over a message: what holds of the bytes absorbed so far and the state, and is kept by every further ABSORB, holds after
the whole message. -/
theorem performAll_absorbs {P : List Byte → State → Prop}
    (hstep : ∀ m b s, P m s → ∃ t, perform (.absorb b) s = .next t ∧ P (m ++ [b]) t) (m n : List Byte) {s : State} (hs : P m s) :
    ∃ t, performAll (absorbs n) s = .next t ∧ P (m ++ n) t := by
  induction n generalizing m s with
  | nil => exact ⟨s, rfl, by simpa using hs⟩
  | cons b n ih =>
    obtain ⟨u, hu, hPu⟩ := hstep m b s hs
    obtain ⟨t, ht, hPt⟩ := ih (m ++ [b]) hPu
    exact ⟨t, (performAll_cons hu).trans ht, by simpa using hPt⟩

/-! ### The length field (42_finalize.md R112) -/

theorem lengthField_toNat (bitcnt : Count) (fill : BitVec 7) :
    (lengthField bitcnt fill).toNat = (bitcnt.toNat + 8 * fill.toNat) % 2 ^ 64 := by
  simp [lengthField, BitVec.toNat_add, BitVec.toNat_mul]

/-- One more byte in the buffer is 8 more bits. -/
theorem lengthField_append (bitcnt : Count) {fill : BitVec 7} (hk : fill.toNat < 63) :
    (lengthField bitcnt (fill + 1#7)).toNat = ((lengthField bitcnt fill).toNat + 8) % 2 ^ 64 := by
  have hfill : (fill + 1#7).toNat = fill.toNat + 1 := BitVec.toNat_add_of_lt (by simp; omega)
  simp only [lengthField_toNat, hfill]
  omega

/-- The 64th byte makes the 504 bits buffered before it the 512 bits of a block counted. -/
theorem lengthField_block (bitcnt : Count) {fill : BitVec 7} (hk : fill.toNat = 63) :
    (lengthField (bitcnt + 512#64) 0#7).toNat = ((lengthField bitcnt fill).toNat + 8) % 2 ^ 64 := by
  simp only [lengthField_toNat, hk, BitVec.toNat_add, BitVec.toNat_ofNat]
  omega

/-- The engine has absorbed `m`, as its length field shows. -/
def CountsBits (m : List Byte) (s : State) : Prop :=
  Absorbing s ∧ (lengthField s.bitcnt s.fill).toNat = 8 * m.length % 2 ^ 64

theorem Fresh.countsBits {s : State} (hs : Fresh s) : CountsBits [] s :=
  ⟨hs.absorbing, by simp [lengthField_toNat, hs.fill, hs.bitcnt]⟩

/-- Every ABSORB adds the 8 bits of its byte, whether it fills the block or not. -/
theorem perform_absorb_countsBits {m : List Byte} (b : Byte) {s : State} (hs : CountsBits m s) :
    ∃ t, perform (.absorb b) s = .next t ∧ CountsBits (m ++ [b]) t := by
  obtain ⟨habs, hlen⟩ := hs
  rw [perform_absorb habs]
  have hmore : ((lengthField s.bitcnt s.fill).toNat + 8) % 2 ^ 64 = 8 * (m ++ [b]).length % 2 ^ 64 := by
    simp [hlen]; omega
  by_cases hk : s.fill.toNat = 63
  · rw [absorbEffect_block (s := s.accept _) b hk]
    exact ⟨_, rfl, ⟨habs.fault, rfl, habs.finalized, by simp⟩, (lengthField_block _ hk).trans hmore⟩
  · have hlt : s.fill.toNat < 63 := by have := habs.fill; omega
    rw [absorbEffect_append (s := s.accept _) b hlt]
    have hroom : (s.fill + 1#7).toNat < 64 := by simp; omega
    exact ⟨_, rfl, ⟨habs.fault, rfl, habs.finalized, hroom⟩, (lengthField_append _ hlt).trans hmore⟩

/-- Settles O14, by induction over the message: a fresh engine has length field 0 and every ABSORB adds 8. -/
theorem lengthFieldCountsMessageBits : Obligations.LengthFieldCountsMessageBits := by
  refine ⟨lengthField_toNat, fun start s m hs => ?_⟩
  obtain ⟨u, hu, hfresh⟩ := performAll_start hs
  obtain ⟨t, ht, -, hlen⟩ := performAll_absorbs (fun _ b _ h => perform_absorb_countsBits b h) [] m hfresh.countsBits
  exact ⟨t, (performAll_append hu).trans ht, hlen⟩

/-! ### The digest (42_finalize.md R116) -/

/-- R116 as it is written: byte `k` of word `i` is the word's bits `31 - 8k` to `24 - 8k`. -/
theorem serialize_getElem (h : Chain) (i : Fin 8) (k : Fin 4) :
    (serialize h)[4 * i.val + k.val] = h[i].extractLsb' (24 - 8 * k.val) 8 := by
  have hword : (4 * i.val + k.val) / 4 = i.val := by omega
  have hbyte : (4 * i.val + k.val) % 4 = k.val := by omega
  simp [serialize, hword, hbyte]

theorem serialize_getElem_toNat (h : Chain) (i : Fin 8) (k : Fin 4) :
    (serialize h)[4 * i.val + k.val].toNat = h[i].toNat / 2 ^ (24 - 8 * k.val) % 256 := by
  rw [serialize_getElem, BitVec.extractLsb'_toNat, Nat.shiftRight_eq_div_pow]

/-- The completion of FINALIZE serialises the chaining value that it leaves. -/
theorem execFinalize_digest {s t : State} (hb : s.busy = true) (hp : s.pending = some 0x0300#16) (h : execFinalize s = .next t) :
    t.digest = serialize t.h := by
  obtain ⟨-, ⟨-, -, u, hu, rfl⟩ | ⟨-, hheld, -⟩ | ⟨hidle, -⟩ | ⟨hidle, -⟩⟩ := command_cases h
  · obtain ⟨-, rfl⟩ := finalizeEffect_cases hu
    rfl
  · exact absurd hp hheld
  all_goals simp [hb] at hidle

/-- Settles O15, from FINALIZE's effect and the place of each byte in the serialisation. -/
theorem digestSerializesBigEndian : Obligations.DigestSerializesBigEndian := by
  refine ⟨fun _ _ hb hp h => execFinalize_digest hb hp h, serialize_getElem_toNat, fun h h0 => ?_⟩
  have hbyte (k : Fin 4) : (serialize h)[k.val] = (0xba7816bf#32).extractLsb' (24 - 8 * k.val) 8 := by
    simpa [h0] using serialize_getElem h 0 k
  exact ⟨hbyte 0, hbyte 1, hbyte 2, hbyte 3⟩

end Sys2Proof.Proofs

namespace Sys2Proof.Proofs

open Sys2Proof.Machine

/-! ### Hex characters (43_readout.md R129, R130) -/

/-- R129, the digits `0` to `9`. -/
theorem hexdigit_toNat_of_le_nine {v : BitVec 4} (hv : v.toNat ≤ 9) : (hexdigit v).toNat = 0x30 + v.toNat := by
  rw [hexdigit, if_pos hv]
  bv_omega

/-- R129, the letters `a` to `f`. -/
theorem hexdigit_toNat_of_ten_le {v : BitVec 4} (hv : 10 ≤ v.toNat) : (hexdigit v).toNat = 0x61 + (v.toNat - 10) := by
  have hletter : ¬v.toNat ≤ 9 := by omega
  rw [hexdigit, if_neg hletter]
  bv_omega

/-- R130: the character at an even index is the hex digit of its byte's high nibble. -/
theorem hexchar_even (d : Digest) (p : Fin 32) :
    hexchar d (BitVec.ofNat 6 (2 * p.val)) = hexdigit (d[p].extractLsb' 4 4) := by
  have hindex : (BitVec.ofNat 6 (2 * p.val)).toNat = 2 * p.val := Nat.mod_eq_of_lt (by omega)
  simp [hexchar, hindex]

/-- R130: the character at an odd index is the hex digit of its byte's low nibble. -/
theorem hexchar_odd (d : Digest) (p : Fin 32) :
    hexchar d (BitVec.ofNat 6 (2 * p.val + 1)) = hexdigit (d[p].extractLsb' 0 4) := by
  have hindex : (BitVec.ofNat 6 (2 * p.val + 1)).toNat = 2 * p.val + 1 := Nat.mod_eq_of_lt (by omega)
  have hbyte : (2 * p.val + 1) / 2 = p.val := by omega
  simp [hexchar, hindex, hbyte]

theorem highNibble_toNat (b : Byte) : (b.extractLsb' 4 4).toNat = b.toNat / 16 := by
  rw [BitVec.extractLsb'_toNat, Nat.shiftRight_eq_div_pow, Nat.mod_eq_of_lt (by omega)]

theorem lowNibble_toNat (b : Byte) : (b.extractLsb' 0 4).toNat = b.toNat % 16 := BitVec.extractLsb'_toNat ..

/-- Settles O16, from the two ranges of `hexdigit` and the nibble that each parity of the index selects. -/
theorem hexCharactersAreLowercaseNibbles : Obligations.HexCharactersAreLowercaseNibbles := by
  refine ⟨fun _ => ⟨hexdigit_toNat_of_le_nine, hexdigit_toNat_of_ten_le⟩, fun d p hi lo hhi hlo => ?_⟩
  have hhigh : hi = d[p].extractLsb' 4 4 := BitVec.eq_of_toNat_eq (hhi.trans (highNibble_toNat _).symm)
  have hlow : lo = d[p].extractLsb' 0 4 := BitVec.eq_of_toNat_eq (hlo.trans (lowNibble_toNat _).symm)
  exact ⟨hhigh ▸ hexchar_even d p, hlow ▸ hexchar_odd d p⟩

end Sys2Proof.Proofs

namespace Sys2Proof.Proofs

open Sys2Proof.Machine

/-! ### Digest reads that fault (60_exceptions.md R143, R147) -/

/-- F5 comes first: a read that needs the digest faults while a command is in flight, in either phase. -/
theorem hostRead_busy {a : Addr} {value : State → Word} {s : State} (hf : s.fault = none) (hb : s.busy = true) :
    hostRead a true value s = .next (s.raise .readWhileBusy (.addr a)) := by
  simp [hostRead, hf, hb]

/-- F4: on an idle engine a read that needs the digest faults in the absorbing phase. -/
theorem hostRead_notFinalized {a : Addr} {value : State → Word} {s : State} (hf : s.fault = none) (hb : s.busy = false)
    (hd : s.finalized = false) : hostRead a true value s = .next (s.raise .digestNotValid (.addr a)) := by
  simp [hostRead, hf, hb, hd]

/-- A read that does not need the digest answers in every state with no fault. -/
theorem hostRead_needsNoDigest {a : Addr} {value : State → Word} {s : State} (hf : s.fault = none) :
    hostRead a false value s = .next (s.record (value s)) := by
  simp [hostRead, hf]

/-- RDDIGEST and RDHEX are reads, at the address that encodes them, of a value that needs the digest. -/
theorem exec_digestRead {i : Instr} {a : Addr} (hi : (∃ k, i = .rddigest k) ∨ ∃ j, i = .rdhex j) (ha : encode i = .rd a) :
    ∃ value, exec i = hostRead a true value := by
  rcases hi with ⟨k, rfl⟩ | ⟨j, rfl⟩
  · obtain rfl : digestAddr k = a := Transaction.rd.inj ha
    exact ⟨_, rfl⟩
  · obtain rfl : hexAddr j = a := Transaction.rd.inj ha
    exact ⟨_, rfl⟩

/-- Settles O29: both digest reads are one read step, which faults by the engine's phase; the STATUS read needs no digest. -/
theorem digestReadFaults : Obligations.DigestReadFaults := by
  refine fun s hf => ⟨fun i a hi ha => ?_, s.record (statusWord s), hostRead_needsNoDigest hf, hf⟩
  obtain ⟨value, hexec⟩ := exec_digestRead hi ha
  rw [hexec]
  exact ⟨hostRead_busy hf, hostRead_notFinalized hf⟩

/-! ### Commands written after FINALIZE (60_exceptions.md R142) -/

/-- F3: on an idle engine a command that needs the absorbing phase faults in the finalized one. -/
theorem command_afterFinalize {w : CmdWord} {eff : State → Result} {s : State} (hf : s.fault = none) (hb : s.busy = false)
    (hd : s.finalized = true) : command w true eff s = .next (s.raise .useAfterFinalize (.word w)) := by
  simp [command, hf, hb, hd]

/-- ABSORB `b` has the command word 0x0200 + b (40_init_absorb.md R72). -/
theorem absorbWord_eq_add (b : Byte) : absorbWord b = 0x0200#16 + b.setWidth 16 := by
  refine BitVec.eq_of_toNat_eq ?_
  rw [absorbWord, BitVec.toNat_append, ← Nat.shiftLeft_add_eq_or_of_lt b.isLt]
  simp [BitVec.toNat_add]
  omega

/-- Settles O28: ABSORB and FINALIZE need the absorbing phase, INIT does not, and INIT's effect ends the finalized phase. -/
theorem useAfterFinalizeFaults : Obligations.UseAfterFinalizeFaults := by
  refine fun s hf hd => ⟨fun hb b => ?_, fun hb => command_afterFinalize hf hb hd, fun hb => ?_⟩
  · rw [← absorbWord_eq_add]
    exact command_afterFinalize hf hb hd
  · have haccept : exec .init s = .next (s.accept 0x0100#16) := command_accepts hf hb (.inl rfl)
    have hcomplete : exec .init (s.accept 0x0100#16) = finish (initEffect (s.accept 0x0100#16)) := command_completes hf rfl rfl
    exact ⟨_, _, haccept, hf, hcomplete, hf, rfl⟩

end Sys2Proof.Proofs

namespace Sys2Proof.Proofs

open Sys2Proof.Machine Sys2Proof.Laws

/-! ### The fields of a command word and of a read address (30_encoding.md R48 to R55) -/

theorem opField_append_immField (w : CmdWord) : opField w ++ immField w = w := BitVec.extractLsb'_append_extractLsb'

@[simp] theorem opField_append (op imm : BitVec 8) : opField (op ++ imm) = op := BitVec.extractLsb'_append_eq_left

@[simp] theorem immField_append (op imm : BitVec 8) : immField (op ++ imm) = imm := BitVec.extractLsb'_append_eq_right

theorem opField_toNat (w : CmdWord) : (opField w).toNat = w.toNat / 256 := by
  rw [opField, BitVec.extractLsb'_toNat, Nat.shiftRight_eq_div_pow, Nat.mod_eq_of_lt (by omega)]

theorem immField_toNat (w : CmdWord) : (immField w).toNat = w.toNat % 256 := BitVec.extractLsb'_toNat ..

/-! ### Decoding and encoding (30_encoding.md section 3) -/

theorem decodeCmd_absorb_append (imm : BitVec 8) : decodeCmd (0x02#8 ++ imm) = .ok (.absorb imm) := by
  simp [decodeCmd]

theorem decodeRd_digestAddr (i : BitVec 3) : decodeRd (digestAddr i) = .ok (.rddigest i) := by
  have htop : (digestAddr i).extractLsb' 3 4 = 0b0001#4 := BitVec.extractLsb'_append_eq_left
  have hindex : (digestAddr i).extractLsb' 0 3 = i := BitVec.extractLsb'_append_eq_right
  have hnonzero : digestAddr i ≠ 0#7 := fun h => by simp [h] at htop
  rw [decodeRd, if_neg hnonzero, if_pos htop, hindex]

theorem decodeRd_hexAddr (j : BitVec 6) : decodeRd (hexAddr j) = .ok (.rdhex j) := by
  have htop : (hexAddr j).extractLsb' 6 1 = 1#1 := BitVec.extractLsb'_append_eq_left
  have hindex : (hexAddr j).extractLsb' 0 6 = j := BitVec.extractLsb'_append_eq_right
  have hnonzero : hexAddr j ≠ 0#7 := fun h => by simp [h] at htop
  have hnotDigest : (hexAddr j).extractLsb' 3 4 ≠ 0b0001#4 := by
    revert j; decide
  rw [decodeRd, if_neg hnonzero, if_neg hnotDigest, if_pos htop, hindex]

/-- Settles O1: each operation's fields are read back from the word or address they were appended to. -/
theorem decodeInvertsEncode : Obligations.DecodeInvertsEncode
  | .init | .finalize | .rdstatus => rfl
  | .absorb b => decodeCmd_absorb_append b
  | .rddigest i => decodeRd_digestAddr i
  | .rdhex j => decodeRd_hexAddr j

/-- A command word that decodes is the encoding of what it decodes to: it is its two fields, and the decoder checked both. -/
theorem encode_of_decodeCmd {w : CmdWord} {i : Instr} (h : decodeCmd w = .ok i) : encode i = .cmd w := by
  rw [decodeCmd] at h
  rw [← opField_append_immField w]
  split at h
  · next hop =>
    split at h
    · next himm => cases h; rw [hop, himm]; rfl
    · cases h
  · split at h
    · next hop => cases h; rw [hop]; rfl
    · split at h
      · next hop =>
        split at h
        · next himm => cases h; rw [hop, himm]; rfl
        · cases h
      · cases h

/-- A read address that decodes is the encoding of what it decodes to: it is the opcode bits checked and the index read. -/
theorem encode_of_decodeRd {a : Addr} {i : Instr} (h : decodeRd a = .ok i) : encode i = .rd a := by
  rw [decodeRd] at h
  split at h
  · next ha => cases h; rw [ha]; rfl
  · split at h
    · next htop =>
      cases h
      rw [encode, digestAddr, ← htop]
      exact congrArg _ BitVec.extractLsb'_append_extractLsb'
    · split at h
      · next htop =>
        cases h
        rw [encode, hexAddr, ← htop]
        exact congrArg _ BitVec.extractLsb'_append_extractLsb'
      · cases h

/-- Settles O2, from the two ports' decoders. -/
theorem encodeInvertsDecode : Obligations.EncodeInvertsDecode
  | .cmd _, _, h => encode_of_decodeCmd h
  | .rd _, _, h => encode_of_decodeRd h

/-- Decoding and encoding are inverse, so that what decodes to `i` is the one encoding of `i`. -/
theorem decode_eq_ok_iff {t : Transaction} {i : Instr} : decode t = .ok i ↔ encode i = t :=
  ⟨encodeInvertsDecode t i, fun h => h ▸ decodeInvertsEncode i⟩

theorem decodeCmd_eq_ok_iff {w : CmdWord} {i : Instr} : decodeCmd w = .ok i ↔ encode i = .cmd w :=
  decode_eq_ok_iff (t := .cmd w)

theorem decodeRd_eq_ok_iff {a : Addr} {i : Instr} : decodeRd a = .ok i ↔ encode i = .rd a :=
  decode_eq_ok_iff (t := .rd a)

/-! ### The reserved space (30_encoding.md R56 to R58) -/

theorem opcodeDefined_iff (w : CmdWord) :
    w.opcodeDefined = true ↔ opField w = 0x01#8 ∨ opField w = 0x02#8 ∨ opField w = 0x03#8 := by
  simp [CmdWord.opcodeDefined, ← BitVec.toNat_inj, opField_toNat, or_assoc]

theorem operandDefined_iff (w : CmdWord) :
    w.operandDefined = true ↔ (opField w = 0x01#8 ∨ opField w = 0x03#8 → immField w = 0#8) := by
  simp [CmdWord.operandDefined, ← BitVec.toNat_inj, opField_toNat, immField_toNat]
  tauto

/-- What `decodeCmd` answers, by the two checks of R56 and R57. -/
theorem decodeCmd_cases (w : CmdWord) :
    (w.opcodeDefined = true ∧ w.operandDefined = true ∧ ∃ i, decodeCmd w = .ok i) ∨
    (w.opcodeDefined = true ∧ w.operandDefined = false ∧ decodeCmd w = .error .rsvdOperand) ∨
    (w.opcodeDefined = false ∧ decodeCmd w = .error .rsvdOpcode) := by
  simp only [← Bool.not_eq_true, opcodeDefined_iff, operandDefined_iff, decodeCmd]
  by_cases h1 : opField w = 0x01#8
  · by_cases himm : immField w = 0#8 <;> simp [h1, himm]
  by_cases h2 : opField w = 0x02#8
  · simp [h2]
  by_cases h3 : opField w = 0x03#8
  · by_cases himm : immField w = 0#8 <;> simp [h3, himm]
  · simp [h1, h2, h3]

/-- What `decodeRd` answers, by the check of R58. -/
theorem decodeRd_cases (a : Addr) :
    (a.defined = true ∧ ∃ i, decodeRd a = .ok i) ∨ (a.defined = false ∧ decodeRd a = .error .rsvdAddress) := by
  have hdefined : a.defined = true ↔ a = 0#7 ∨ a.extractLsb' 3 4 = 0b0001#4 ∨ a.extractLsb' 6 1 = 1#1 := by
    revert a; decide
  rw [← Bool.not_eq_true, hdefined, decodeRd]
  by_cases h0 : a = 0#7
  · simp [h0]
  by_cases h1 : a.extractLsb' 3 4 = 0b0001#4
  · simp [h0, h1]
  by_cases h2 : a.extractLsb' 6 1 = 1#1
  · simp [h0, h1, h2]
  · simp [h0, h1, h2]

/-- Settles O3: in each case of the two decoders the answer and the checks are as the statement says. -/
theorem decodersRejectExactlyReservedSpace : Obligations.DecodersRejectExactlyReservedSpace := by
  refine ⟨fun w => ?_, fun a => ?_⟩
  · rcases decodeCmd_cases w with ⟨hop, himm, i, hi⟩ | ⟨hop, himm, he⟩ | ⟨hop, he⟩
    · simp [hop, himm, hi]
    · simp [hop, himm, he]
    · simp [hop, he]
  · rcases decodeRd_cases a with ⟨ha, i, hi⟩ | ⟨ha, he⟩
    · simp [ha, hi]
    · simp [ha, he]

/-- Settles O4, by evaluation of the decoders on the six transactions. -/
theorem sampleWordsDecode : Obligations.SampleWordsDecode := by
  unfold Obligations.SampleWordsDecode
  decide

end Sys2Proof.Proofs

namespace Sys2Proof.Proofs

open Sys2Proof.Machine Sys2Proof.Laws

/-! ### Every operation is a command or a read

`exec` goes through one of the two shared operations: a command with its own effect at completion, or a read with its own value. What
follows about `exec` is proved of these two. -/

/-- The command needs the absorbing phase (40_init_absorb.md R76). -/
def needsAbsorbing : Instr → Bool
  | .absorb _ | .finalize => true
  | .init | .rdstatus | .rddigest _ | .rdhex _ => false

/-- What a command does at its completion (R78); a read has none. -/
def commandEffect : Instr → State → Result
  | .init => initEffect
  | .absorb b => absorbEffect b
  | .finalize => finalizeEffect
  | .rdstatus | .rddigest _ | .rdhex _ => .next

/-- The read needs a valid digest (43_readout.md R126). -/
def needsDigest : Instr → Bool
  | .rddigest _ | .rdhex _ => true
  | .init | .absorb _ | .finalize | .rdstatus => false

/-- The value a read returns (43_readout.md R127, R128, R131); a command returns none. -/
def readValue : Instr → State → Word
  | .rdstatus, s => statusWord s
  | .rddigest i, s => digestWord s.digest i
  | .rdhex j, s => (hexchar s.digest j).setWidth 32
  | .init, _ | .absorb _, _ | .finalize, _ => 0#32

theorem exec_of_encode_cmd {i : Instr} {w : CmdWord} (h : encode i = .cmd w) :
    exec i = command w (needsAbsorbing i) (commandEffect i) := by
  cases i with
  | init | absorb _ | finalize => obtain rfl := Transaction.cmd.inj h; rfl
  | rdstatus | rddigest _ | rdhex _ => cases h

theorem exec_of_encode_rd {i : Instr} {a : Addr} (h : encode i = .rd a) : exec i = hostRead a (needsDigest i) (readValue i) := by
  cases i with
  | init | absorb _ | finalize => cases h
  | rdstatus | rddigest _ | rdhex _ => obtain rfl := Transaction.rd.inj h; rfl

/-- Everything an operation can answer as a next state: a command's completion, a held write, F3 or an acceptance; a read's F5, F4 or
recorded value. -/
theorem exec_cases {i : Instr} {s t : State} (h : exec i s = .next t) :
    s.fault = none ∧
    ((∃ w, encode i = .cmd w ∧
      ((s.busy = true ∧ s.pending = some w ∧ ∃ u, commandEffect i s = .next u ∧ t = u.complete) ∨
       (s.busy = true ∧ s.pending ≠ some w ∧ t = s) ∨
       (s.busy = false ∧ needsAbsorbing i = true ∧ s.finalized = true ∧ t = s.raise .useAfterFinalize (.word w)) ∨
       (s.busy = false ∧ (needsAbsorbing i = false ∨ s.finalized = false) ∧ t = s.accept w))) ∨
     (∃ a, encode i = .rd a ∧ ((∃ c, t = s.raise c (.addr a)) ∨ t = s.record (readValue i s)))) := by
  cases he : encode i with
  | cmd w =>
    rw [exec_of_encode_cmd he] at h
    obtain ⟨hf, hcases⟩ := command_cases h
    exact ⟨hf, .inl ⟨w, rfl, hcases⟩⟩
  | rd a =>
    rw [exec_of_encode_rd he] at h
    obtain ⟨hf, ⟨-, -, ht⟩ | ⟨-, -, -, ht⟩ | ⟨-, ht⟩⟩ := hostRead_cases h
    · exact ⟨hf, .inr ⟨a, rfl, .inl ⟨_, ht⟩⟩⟩
    · exact ⟨hf, .inr ⟨a, rfl, .inl ⟨_, ht⟩⟩⟩
    · exact ⟨hf, .inr ⟨a, rfl, .inr ht⟩⟩

/-- Where the buffer has room every command's effect is defined. -/
theorem commandEffect_answers (i : Instr) {s : State} (hfill : s.fill.toNat < 64) : ∃ u, commandEffect i s = .next u := by
  cases i with
  | absorb b =>
    by_cases hk : s.fill.toNat = 63
    · exact ⟨_, absorbEffect_block b hk⟩
    · exact ⟨_, absorbEffect_append b (by omega)⟩
  | finalize => exact ⟨_, if_pos hfill⟩
  | init | rdstatus | rddigest _ | rdhex _ => exact ⟨_, rfl⟩

/-- What every command's effect leaves unchanged: FAULT, and all that is not the engine's. -/
theorem commandEffect_frame {i : Instr} {s u : State} (h : commandEffect i s = .next u) :
    u.fault = s.fault ∧ u.port = s.port ∧ u.out = s.out ∧ u.lat = s.lat ∧ u.accepted = s.accepted := by
  cases i with
  | absorb b => obtain ⟨-, ⟨-, rfl⟩ | ⟨-, rfl⟩⟩ := absorbEffect_cases h <;> exact ⟨rfl, rfl, rfl, rfl, rfl⟩
  | finalize => obtain ⟨-, rfl⟩ := finalizeEffect_cases h; exact ⟨rfl, rfl, rfl, rfl, rfl⟩
  | init | rdstatus | rddigest _ | rdhex _ => cases h; exact ⟨rfl, rfl, rfl, rfl, rfl⟩

/-! ### The invariants of 10_state.md R31 -/

/-- FAULT, the port, the record and the model's own fields are in no invariant, nor is BUF. -/
theorem inv_congr {s t : State} (h : Inv s)
    (hsame : (t.h, t.fill, t.bitcnt, t.finalized, t.digest, t.busy, t.pending) =
      (s.h, s.fill, s.bitcnt, s.finalized, s.digest, s.busy, s.pending)) : Inv t := by
  simp only [Prod.mk.injEq] at hsame
  obtain ⟨hh, hfill, hbitcnt, hfin, hdigest, hbusy, hpending⟩ := hsame
  exact ⟨hfill ▸ h.fill_le, by rw [hbusy, hpending]; exact h.busy_pending, hbitcnt ▸ h.bitcnt_blocks,
    by rw [hfin, hdigest, hh]; exact h.digest_final, by rw [hfin, hpending]; exact h.pending_allowed⟩

theorem inv_pollWait {s : State} (h : Inv s) : Inv (pollWait s) := by
  rw [pollWait]
  split
  · exact inv_congr h rfl
  · exact h

theorem inv_applyReset (rest : List Req) (s : State) : Inv (s.applyReset rest) :=
  ⟨Nat.zero_le _, rfl, rfl, fun h => absurd h (by simp), rfl⟩

/-- A word that encodes an operation is allowed in flight in the absorbing phase, and in the finalized one where it does not need the
absorbing phase. -/
theorem pendingAllowed_encode {i : Instr} {w : CmdWord} {fin : Bool} (hi : encode i = .cmd w) :
    pendingAllowed fin (some w) = true ↔ (needsAbsorbing i = false ∨ fin = false) := by
  rw [pendingAllowed, decodeCmd_eq_ok_iff.mpr hi]
  cases i with
  | init => simp [needsAbsorbing]
  | absorb b => simp [needsAbsorbing]
  | finalize => simp [needsAbsorbing]
  | rdstatus | rddigest _ | rdhex _ => cases hi

theorem inv_accept {i : Instr} {w : CmdWord} {s : State} (h : Inv s) (hi : encode i = .cmd w)
    (hallowed : needsAbsorbing i = false ∨ s.finalized = false) : Inv (s.accept w) :=
  ⟨h.fill_le, rfl, h.bitcnt_blocks, h.digest_final, (pendingAllowed_encode hi).mpr hallowed⟩

/-- The effect of a command allowed in its phase keeps the invariants that the completion leaves to it. -/
theorem inv_complete {i : Instr} {s u : State} (h : Inv s) (hallowed : needsAbsorbing i = false ∨ s.finalized = false)
    (he : commandEffect i s = .next u) : Inv u.complete := by
  cases i with
  | init => cases he; exact ⟨Nat.zero_le _, rfl, rfl, fun h => absurd h (by simp), rfl⟩
  | absorb b =>
    have hphase : s.finalized = false := by simpa [needsAbsorbing] using hallowed
    obtain ⟨-, ⟨-, rfl⟩ | ⟨hk, rfl⟩⟩ := absorbEffect_cases he
    · refine ⟨by simp, rfl, ?_, fun hfin => ?_, rfl⟩
      · have hblocks := h.bitcnt_blocks
        simp only [State.complete_bitcnt, BitVec.toNat_add, BitVec.toNat_ofNat]
        omega
      · simp [hphase] at hfin
    · refine ⟨?_, rfl, h.bitcnt_blocks, fun hfin => ?_, rfl⟩
      · simp only [State.complete_fill, BitVec.toNat_add, BitVec.toNat_ofNat]
        omega
      · simp [hphase] at hfin
  | finalize =>
    obtain ⟨-, rfl⟩ := finalizeEffect_cases he
    exact ⟨h.fill_le, rfl, h.bitcnt_blocks, fun _ => rfl, rfl⟩
  | rdstatus | rddigest _ | rdhex _ => cases he; exact ⟨h.fill_le, rfl, h.bitcnt_blocks, h.digest_final, rfl⟩

theorem inv_exec {i : Instr} {s t : State} (h : Inv s) (ht : exec i s = .next t) : Inv t := by
  obtain ⟨-, ⟨w, hi, hcmd⟩ | ⟨a, -, hread⟩⟩ := exec_cases ht
  · rcases hcmd with ⟨-, hp, u, he, rfl⟩ | ⟨-, -, rfl⟩ | ⟨-, -, -, rfl⟩ | ⟨-, hallowed, rfl⟩
    · have hpending := h.pending_allowed
      rw [hp, pendingAllowed_encode hi] at hpending
      exact inv_complete h hpending he
    · exact h
    · exact inv_congr h rfl
    · exact inv_accept h hi hallowed
  · rcases hread with ⟨c, rfl⟩ | rfl
    · exact inv_congr h rfl
    · exact inv_congr h rfl

/-- Settles O48, by the cases of a step: each operation keeps the invariants, and so does each step without one. -/
theorem stepKeepsInvariants : Obligations.StepKeepsInvariants := by
  intro s t h ht
  rcases step_cases ht with ⟨m, rest, -, -, rfl⟩ | ⟨-, -, -, rfl⟩ | ⟨-, -, w, i, -, -, he⟩ | ⟨-, r, rest, -, -, hmove⟩
  · exact inv_applyReset rest s
  · exact h
  · exact inv_exec h he
  · have htake : Inv (s.take rest) := inv_congr h rfl
    rcases hmove with ⟨tr, i, -, -, he⟩ | ⟨tr, c, -, -, rfl⟩ | ⟨-, rfl⟩ | ⟨-, rfl⟩
    · exact inv_exec htake he
    · exact inv_congr htake rfl
    · exact inv_pollWait htake
    · exact inv_applyReset rest _

/-- Settles O47: reset is a state that a reset leaves. -/
theorem resetMeetsInvariants : Obligations.ResetMeetsInvariants := inv_applyReset [] State.reset

end Sys2Proof.Proofs

namespace Sys2Proof.Proofs

open Sys2Proof.Machine Sys2Proof.Laws

/-! ### What a step is, where its first request or the command in flight is known (40_init_absorb.md R76, R77, 43_readout.md R125) -/

theorem step_request {s : State} {r : Req} {rest : List Req} (hf : s.fault = none) (hp : s.port = r :: rest)
    (hb : s.busy = true → isCommandWrite r = false ∧ s.lat ≠ 0) : step s = answer (requestMove r (s.take rest)) := by
  rw [step, fetch_request hf hp hb]

theorem step_engine {s : State} (hf : s.fault = none) (hb : s.busy = true)
    (hp : s.port = [] ∨ ∃ r rest, s.port = r :: rest ∧ (isCommandWrite r = true ∨ s.lat = 0)) : step s = answer (engineMove s) := by
  rw [step, fetch_engine hf hb hp]

theorem requestMove_txn {tr : Transaction} {i : Instr} (s : State) (hd : decode tr = .ok i) :
    requestMove (.txn tr) s = .run i s := by
  simp only [requestMove, hd]

theorem requestMove_reserved {tr : Transaction} {c : FaultCode} (s : State) (hd : decode tr = .error c) :
    requestMove (.txn tr) s = .settle (s.raise c (transactionInfo tr)) := by
  simp only [requestMove, hd]

theorem engineMove_pending {s : State} {w : CmdWord} {i : Instr} (hp : s.pending = some w) (hd : decodeCmd w = .ok i) :
    engineMove s = .run i s := by
  simp only [engineMove, hp, hd]

/-- Bit 0 of STATUS is BUSY, so WAIT goes on exactly while a command is in flight (30_encoding.md R68). -/
theorem statusBusy_statusWord (s : State) : statusBusy (statusWord s) = s.busy := by
  rw [statusBusy, statusWord]
  cases s.busy <;> cases s.finalized <;> rfl

/-- A poll of WAIT is over where no command is in flight. -/
theorem pollWait_idle {s : State} (hb : s.busy = false) : pollWait s = s := if_neg (by simp [statusBusy_statusWord, hb])

/-- A WAIT that goes on stands in the port again. -/
def requeueWait (s : State) : State := { s with port := .wait :: s.port }

theorem pollWait_busy {s : State} (hb : s.busy = true) : pollWait s = requeueWait s :=
  if_pos ((statusBusy_statusWord s).trans hb)

/-- Settles O39: the host's move runs what the request decodes to. -/
theorem stepRunsRequestedInstruction : Obligations.StepRunsRequestedInstruction := by
  intro s tr i rest hf hp hd hb
  have hread : s.busy = true → isCommandWrite (.txn tr) = false ∧ s.lat ≠ 0 := fun hbusy => by
    obtain ⟨⟨a, rfl⟩, hlat⟩ := hb hbusy
    exact ⟨rfl, hlat⟩
  rw [step_request hf hp hread, requestMove_txn _ hd]
  rfl

/-- Settles O40: the engine's move runs what PENDING decodes to. -/
theorem stepCompletesPendingCommand : Obligations.StepCompletesPendingCommand := by
  intro s w i hf hb hw hd hp
  have hfirst : s.port = [] ∨ ∃ r rest, s.port = r :: rest ∧ (isCommandWrite r = true ∨ s.lat = 0) := by
    rcases hp with hp | ⟨v, rest, hp⟩ | hlat
    · exact .inl hp
    · exact .inr ⟨_, rest, hp, .inl rfl⟩
    · cases hport : s.port with
      | nil => exact .inl rfl
      | cons r rest => exact .inr ⟨r, rest, rfl, .inr hlat⟩
  rw [step_engine hf hb hfirst, engineMove_pending hw hd]
  rfl

/-- Settles O42: the two cases of the latency are the engine's step and the host's. -/
theorem eitherStepMayComeFirst : Obligations.EitherStepMayComeFirst := by
  intro s a w rest i j hf hb hp hi hw hj
  refine ⟨stepCompletesPendingCommand { s with lat := 0 } w j hf hb hw hj (.inr (.inr rfl)), fun n => ?_⟩
  exact stepRunsRequestedInstruction { s with lat := n + 1 } (.rd a) i rest hf hp hi fun _ => ⟨⟨a, rfl⟩, Nat.succ_ne_zero n⟩

/-- Settles O43: a WAIT's step is a poll, which puts the WAIT back while the read shows BUSY. -/
theorem waitPollsStatus : Obligations.WaitPollsStatus := by
  intro s rest hf hp
  refine ⟨fun hb => ?_, fun hb hlat => ?_⟩
  · rw [step_request hf hp (by simp [hb]), requestMove, pollWait_idle (s := s.take rest) hb]
    rfl
  · rw [step_request hf hp fun _ => ⟨rfl, hlat⟩, requestMove, pollWait_busy (s := s.take rest) hb, requeueWait, State.take_port, ← hp]
    rfl

/-- Settles O46: an idle step is a step of its own. -/
theorem idleEngineHoldsState : Obligations.IdleEngineHoldsState := fun s hf hb hp => by
  rw [step, fetch_idle hf hp hb]
  rfl

/-! ### Reset and the stop after a fault (70_reset_and_hazards.md R160, 60_exceptions.md R145) -/

/-- The first reset is found behind any lines of the failed run. -/
theorem afterReset_append {before : List Req} (rest : List Req) (h : Req.reset ∉ before) :
    afterReset (before ++ .reset :: rest) = some rest := by
  induction before with
  | nil => rfl
  | cons r before ih =>
    obtain ⟨hr, hbefore⟩ := not_or.mp (mt List.mem_cons.mpr h)
    cases r with
    | txn _ | wait => exact ih hbefore
    | reset => exact absurd rfl hr

theorem afterReset_eq_none {port : List Req} (h : Req.reset ∉ port) : afterReset port = none := by
  induction port with
  | nil => rfl
  | cons r port ih =>
    obtain ⟨hr, hport⟩ := not_or.mp (mt List.mem_cons.mpr h)
    cases r with
    | txn _ | wait => exact ih hport
    | reset => exact absurd rfl hr

/-- Settles O20: with a fault the reset is the only step, without one it is the host's first request. -/
theorem resetRequestRestoresEngine : Obligations.ResetRequestRestoresEngine := by
  intro s rest hp hb
  cases hf : s.fault with
  | some m =>
    rw [step, fetch_reset hf (by rw [hp]; rfl)]
    rfl
  | none =>
    rw [step_request hf hp fun hbusy => ⟨rfl, hb hf hbusy⟩]
    rfl

theorem exec_halted {s : State} {m : FaultMark} (hf : s.fault = some m) (i : Instr) : exec i s = .fault (.halted m) := by
  cases he : encode i with
  | cmd w => simp [exec_of_encode_cmd he, command, hf]
  | rd a => simp [exec_of_encode_rd he, hostRead, hf]

/-- Settles O32: with FAULT set the only step is the first reset's. -/
theorem faultEndsTheRun : Obligations.FaultEndsTheRun := by
  intro s m hf
  refine ⟨exec_halted hf, fun hp => ?_, fun before rest hbefore hp => ?_⟩
  · rw [step, fetch_halted hf (afterReset_eq_none hp)]
    rfl
  · rw [step, fetch_reset hf (by rw [hp]; exact afterReset_append rest hbefore)]
    rfl

/-! ### Operations that answer a next state (60_exceptions.md R157) -/

theorem command_held {w : CmdWord} {ab : Bool} {eff : State → Result} {s : State} (hf : s.fault = none) (hb : s.busy = true)
    (hp : s.pending ≠ some w) : command w ab eff s = .next s := by
  simp [command, hf, hb, hp]

/-- R125: a read that needs no digest, or finds it valid, answers its value. -/
theorem hostRead_records {a : Addr} {nd : Bool} {value : State → Word} {s : State} (hf : s.fault = none)
    (hvalid : nd = true → s.busy = false ∧ s.finalized = true) : hostRead a nd value s = .next (s.record (value s)) := by
  cases nd with
  | false => exact hostRead_needsNoDigest hf
  | true =>
    obtain ⟨hb, hfin⟩ := hvalid rfl
    simp [hostRead, hf, hb, hfin]

/-- With no fault and room in the buffer every operation answers a next state, whatever is in flight. -/
theorem exec_answers (i : Instr) {s : State} (hf : s.fault = none) (hfill : s.fill.toNat < 64) : ∃ t, exec i s = .next t := by
  cases he : encode i with
  | cmd w =>
    rw [exec_of_encode_cmd he]
    cases hb : s.busy with
    | true =>
      by_cases hp : s.pending = some w
      · obtain ⟨u, hu⟩ := commandEffect_answers i hfill
        exact ⟨u.complete, by rw [command_completes hf hb hp, hu]; rfl⟩
      · exact ⟨s, command_held hf hb hp⟩
    | false =>
      by_cases hphase : needsAbsorbing i = false ∨ s.finalized = false
      · exact ⟨_, command_accepts hf hb hphase⟩
      · simp only [not_or, Bool.not_eq_false] at hphase
        obtain ⟨hneeds, hfin⟩ := hphase
        exact ⟨_, by rw [hneeds]; exact command_afterFinalize hf hb hfin⟩
  | rd a =>
    rw [exec_of_encode_rd he]
    cases hn : needsDigest i with
    | false => exact ⟨_, hostRead_needsNoDigest hf⟩
    | true =>
      cases hb : s.busy with
      | true => exact ⟨_, hostRead_busy hf hb⟩
      | false =>
        cases hfin : s.finalized with
        | false => exact ⟨_, hostRead_notFinalized hf hb hfin⟩
        | true => exact ⟨_, hostRead_records hf fun _ => ⟨hb, hfin⟩⟩

/-- A command in flight completes: it is over, and what is not the engine's is as it was. -/
theorem exec_completes {i : Instr} {w : CmdWord} {s : State} (hi : encode i = .cmd w) (hf : s.fault = none) (hb : s.busy = true)
    (hp : s.pending = some w) (hfill : s.fill.toNat < 64) :
    ∃ t, exec i s = .next t ∧ t.busy = false ∧ t.fault = none ∧ t.port = s.port ∧ t.out = s.out := by
  obtain ⟨u, hu⟩ := commandEffect_answers i hfill
  obtain ⟨hfault, hport, hout, -⟩ := commandEffect_frame hu
  refine ⟨u.complete, ?_, rfl, hfault.trans hf, hport, hout⟩
  rw [exec_of_encode_cmd hi, command_completes hf hb hp, hu]
  rfl

/-- What is in flight in a state of the invariants is a command's encoding (40_init_absorb.md R78). -/
theorem pending_of_busy {s : State} (h : Inv s) (hb : s.busy = true) : ∃ w i, s.pending = some w ∧ encode i = .cmd w := by
  obtain ⟨w, hw⟩ := Option.isSome_iff_exists.mp (h.busy_pending ▸ hb)
  have hallowed := h.pending_allowed
  cases hd : decodeCmd w with
  | ok i => exact ⟨w, i, hw, encode_of_decodeCmd hd⟩
  | error c => simp [hw, pendingAllowed, hd] at hallowed

/-- Settles O49: in a state of the invariants every move that `fetch` can name answers a next state, unless FAULT is set. -/
theorem stepStopsOnlyAfterFault : Obligations.StepStopsOnlyAfterFault := by
  intro s h
  have hroom : s.fill.toNat < 64 := Nat.lt_succ_of_le h.fill_le
  rcases fetch_cases s with ⟨m, hf, ha⟩ | ⟨m, rest, hf, ha⟩ | ⟨hf, hp, hb⟩ | ⟨hf, hb, hp⟩ | ⟨hf, r, rest, hp, hb⟩
  · exact .inr ⟨m, hf, by rw [step, fetch_halted hf ha]; rfl⟩
  · exact .inl ⟨_, by rw [step, fetch_reset hf ha]; rfl⟩
  · exact .inl ⟨s, idleEngineHoldsState s hf hb hp⟩
  · obtain ⟨w, i, hw, hi⟩ := pending_of_busy h hb
    rw [step_engine hf hb hp, engineMove_pending hw (decodeCmd_eq_ok_iff.mpr hi)]
    exact .inl (exec_answers i hf hroom)
  · rw [step_request hf hp hb]
    cases r with
    | txn tr =>
      cases hd : decode tr with
      | ok i => rw [requestMove_txn _ hd]; exact .inl (exec_answers i hf hroom)
      | error c => rw [requestMove_reserved _ hd]; exact .inl ⟨_, rfl⟩
    | wait | reset => exact .inl ⟨_, rfl⟩

/-- Settles O24: another command's write is no move, and the step that completes the command in flight leaves the port as it is. -/
theorem writeHeldWhileBusy : Obligations.WriteHeldWhileBusy := by
  refine ⟨fun i w s hi hf hb hp => ?_, fun s w p rest i hf hb hfill hport hp hd => ?_⟩
  · rw [exec_of_encode_cmd hi]
    exact command_held hf hb hp
  · obtain ⟨t, ht, hbusy, -, hkept, -⟩ := exec_completes (encode_of_decodeCmd hd) hf hb hp (Nat.lt_succ_of_le hfill)
    have hstep : step s = exec i s := stepCompletesPendingCommand s p i hf hb hp hd (.inr (.inl ⟨w, rest, hport⟩))
    exact ⟨t, hstep.trans ht, ht, hkept.trans hport, hbusy⟩

end Sys2Proof.Proofs

namespace Sys2Proof.Proofs

open Sys2Proof.Machine Sys2Proof.Laws

/-! ### Two states that step alike (10_state.md R16, R32, R33)

A relation of two states that agree on everything but the hash state is kept by a step as soon as it is kept by the shared operations of
Ops, which read no hash state, and by the completions, which do. -/

/-- A relation of states that agree outside the hash state, kept by every shared operation. -/
structure HashStateRelation (rel : State → State → Prop) : Prop where
  same : ∀ {s t}, rel s t → SameButHashState s t
  raise : ∀ {s t} c info, rel s t → rel (s.raise c info) (t.raise c info)
  accept : ∀ {s t} w, rel s t → rel (s.accept w) (t.accept w)
  record : ∀ {s t} v, rel s t → rel (s.record v) (t.record v)
  take : ∀ {s t} rest, rel s t → rel (s.take rest) (t.take rest)
  poll : ∀ {s t}, rel s t → rel (requeueWait s) (requeueWait t)
  reset : ∀ {s t} rest, rel s t → rel (s.applyReset rest) (t.applyReset rest)

/-- A command steps alike from two states that agree on FAULT, BUSY, PENDING and FINALIZED, if its effect does. -/
theorem command_agree {rel : State → State → Prop} {w : CmdWord} {ab : Bool} {eff : State → Result} {s t : State}
    (hfault : t.fault = s.fault) (hbusy : t.busy = s.busy) (hpending : t.pending = s.pending) (hfin : t.finalized = s.finalized)
    (hheld : rel s t) (hraise : rel (s.raise .useAfterFinalize (.word w)) (t.raise .useAfterFinalize (.word w)))
    (haccept : rel (s.accept w) (t.accept w))
    (hcomplete : s.busy = true → s.pending = some w → OutcomesAgree rel (finish (eff s)) (finish (eff t))) :
    OutcomesAgree rel (command w ab eff s) (command w ab eff t) := by
  rw [command, command, hfault, hbusy, hpending, hfin]
  split
  · exact rfl
  · split
    · next hb =>
      split
      · next hp => exact hcomplete hb hp
      · exact hheld
    · split
      · exact hraise
      · exact haccept

/-- A read steps alike from two states that agree on FAULT, BUSY and FINALIZED, if what it records does. -/
theorem hostRead_agree {rel : State → State → Prop} {a : Addr} {nd : Bool} {value : State → Word} {s t : State}
    (hfault : t.fault = s.fault) (hbusy : t.busy = s.busy) (hfin : t.finalized = s.finalized)
    (hraise : ∀ c, rel (s.raise c (.addr a)) (t.raise c (.addr a)))
    (hrecord : s.fault = none → rel (s.record (value s)) (t.record (value t))) :
    OutcomesAgree rel (hostRead a nd value s) (hostRead a nd value t) := by
  rw [hostRead, hostRead, hfault, hbusy, hfin]
  split
  · exact rfl
  · next hf =>
    split
    · exact hraise _
    · split
      · exact hraise _
      · exact hrecord hf

/-- The value of a read is a view of BUSY, FINALIZED and DIGEST (10_state.md R26, R29). -/
theorem readValue_congr (i : Instr) {s t : State} (hbusy : t.busy = s.busy) (hfin : t.finalized = s.finalized)
    (hdigest : t.digest = s.digest) : readValue i t = readValue i s := by
  cases i with
  | rdstatus => rw [readValue, readValue, statusWord, statusWord, hbusy, hfin]
  | rddigest _ | rdhex _ => rw [readValue, readValue, hdigest]
  | init | absorb _ | finalize => rfl

/-- What `rel` demands of the completion of a command `i` with the word `w`. -/
abbrev CompletesAlike (rel : State → State → Prop) (s t : State) (i : Instr) (w : CmdWord) : Prop :=
  s.pending = some w → OutcomesAgree rel (finish (commandEffect i s)) (finish (commandEffect i t))

section
variable {rel : State → State → Prop} (hrel : HashStateRelation rel) {s t : State} (h : rel s t)
include hrel h

theorem exec_agree (i : Instr) (hcomplete : ∀ w, encode i = .cmd w → s.busy = true → CompletesAlike rel s t i w) :
    OutcomesAgree rel (exec i s) (exec i t) := by
  have hsame : SameButHashState s t := hrel.same h
  have hraise (c : FaultCode) (info : FaultInfo) : rel (s.raise c info) (t.raise c info) := hrel.raise c info h
  cases hi : encode i with
  | cmd w =>
    rw [exec_of_encode_cmd hi]
    refine command_agree ?_ ?_ ?_ ?_ h (hraise _ _) (hrel.accept w h) (hcomplete w hi) <;> rw [hsame]
  | rd a =>
    have hvalue : readValue i t = readValue i s := readValue_congr i (by rw [hsame]) (by rw [hsame]) (by rw [hsame])
    rw [exec_of_encode_rd hi]
    refine hostRead_agree ?_ ?_ ?_ (fun c => hraise c _) fun _ => hvalue ▸ hrel.record _ h <;> rw [hsame]

/-- The engine's move: it depends on PENDING alone which command completes. -/
theorem engineMove_agree (hcomplete : ∀ i w, encode i = .cmd w → CompletesAlike rel s t i w) :
    OutcomesAgree rel (answer (engineMove s)) (answer (engineMove t)) := by
  have hpending : t.pending = s.pending := by rw [hrel.same h]
  cases hp : s.pending with
  | none =>
    simp only [engineMove, hpending, hp]
    exact rfl
  | some w =>
    cases hd : decodeCmd w with
    | ok i =>
      rw [engineMove_pending hp hd, engineMove_pending (hpending.trans hp) hd]
      exact exec_agree hrel h i fun v hv _ => hcomplete i v hv
    | error c =>
      simp only [engineMove, hpending, hp, hd]
      exact rfl

/-- The first request's move: a command write finds the engine idle, so nothing completes. -/
theorem requestMove_agree (r : Req) (hwrite : s.busy = true → isCommandWrite r = false) :
    OutcomesAgree rel (answer (requestMove r s)) (answer (requestMove r t)) := by
  cases r with
  | txn tr =>
    cases hd : decode tr with
    | ok i =>
      rw [requestMove_txn s hd, requestMove_txn t hd]
      refine exec_agree hrel h i fun w hw hb => absurd (hwrite hb) ?_
      rw [← decode_eq_ok_iff.mp hd, hw]
      exact Bool.noConfusion
    | error c =>
      rw [requestMove_reserved s hd, requestMove_reserved t hd]
      exact hrel.raise c _ h
  | wait =>
    have hbusy : t.busy = s.busy := by rw [hrel.same h]
    cases hb : s.busy with
    | true =>
      rw [requestMove, requestMove, pollWait_busy hb, pollWait_busy (hbusy.trans hb)]
      exact hrel.poll h
    | false =>
      rw [requestMove, requestMove, pollWait_idle hb, pollWait_idle (hbusy.trans hb)]
      exact h
  | reset =>
    have hport : t.port = s.port := by rw [hrel.same h]
    simp only [requestMove, hport]
    exact hrel.reset _ h

/-- Related states step alike if the command in flight completes alike. -/
theorem step_agree (hcomplete : ∀ i w, encode i = .cmd w → CompletesAlike rel s t i w) : OutcomesAgree rel (step s) (step t) := by
  have hsame : SameButHashState s t := hrel.same h
  have hfault : t.fault = s.fault := by rw [hsame]
  have hport : t.port = s.port := by rw [hsame]
  have hbusy : t.busy = s.busy := by rw [hsame]
  have hlat : t.lat = s.lat := by rw [hsame]
  rcases fetch_cases s with ⟨m, hf, ha⟩ | ⟨m, rest, hf, ha⟩ | ⟨hf, hp, hb⟩ | ⟨hf, hb, hp⟩ | ⟨hf, r, rest, hp, hb⟩
  · rw [step, step, fetch_halted hf ha, fetch_halted (hfault.trans hf) (hport ▸ ha)]
    exact rfl
  · rw [step, step, fetch_reset hf ha, fetch_reset (hfault.trans hf) (hport ▸ ha)]
    exact hrel.reset rest h
  · rw [step, step, fetch_idle hf hp hb, fetch_idle (hfault.trans hf) (hport.trans hp) (hbusy.trans hb)]
    exact h
  · rw [step_engine hf hb hp, step_engine (hfault.trans hf) (hbusy.trans hb) (by rwa [hport, hlat])]
    exact engineMove_agree hrel h hcomplete
  · rw [step_request hf hp hb, step_request (hfault.trans hf) (hport.trans hp) (by rwa [hbusy, hlat])]
    exact requestMove_agree hrel (hrel.take rest h) r fun hbusy' => (hb hbusy').1

end

/-! ### The hash state in the finalized phase (10_state.md R32) -/

theorem sameButHashState_kept : HashStateRelation SameButHashState where
  same h := h
  raise c info h := congrArg (State.raise c info) h
  accept w h := congrArg (State.accept w) h
  record v h := congrArg (State.record v) h
  take rest h := congrArg (State.take rest) h
  poll h := congrArg requeueWait h
  reset rest h := by rw [SameButHashState, h]; rfl

/-- The states differ at most in the hash state, and in nothing where the phase is absorbing. -/
def SameButFinalHashState (s t : State) : Prop := SameButHashState s t ∧ (s.finalized = false → s = t)

theorem sameButFinalHashState_kept : HashStateRelation SameButFinalHashState where
  same h := h.1
  raise c info h := ⟨sameButHashState_kept.raise c info h.1, fun hf => congrArg _ (h.2 hf)⟩
  accept w h := ⟨sameButHashState_kept.accept w h.1, fun hf => congrArg _ (h.2 hf)⟩
  record v h := ⟨sameButHashState_kept.record v h.1, fun hf => congrArg _ (h.2 hf)⟩
  take rest h := ⟨sameButHashState_kept.take rest h.1, fun hf => congrArg _ (h.2 hf)⟩
  poll h := ⟨sameButHashState_kept.poll h.1, fun hf => congrArg requeueWait (h.2 hf)⟩
  reset rest h := ⟨sameButHashState_kept.reset rest h.1, fun _ => by rw [h.1]; rfl⟩

/-- INIT writes all of the hash state (40_init_absorb.md R70). -/
theorem initEffect_congr {s t : State} (h : SameButHashState s t) : initEffect t = initEffect s := by
  rw [h]
  rfl

/-- Settles O51: in the finalized phase nothing but INIT is allowed in flight, and INIT leaves equal states. -/
theorem finalizedHashStateUnobservable : Obligations.FinalizedHashStateUnobservable := by
  intro s t hfin hallowed h
  refine step_agree sameButFinalHashState_kept ⟨h, fun hf => absurd hfin (by simp [hf])⟩ fun i w hi hw => ?_
  rw [hw, pendingAllowed_encode hi] at hallowed
  have hneeds : needsAbsorbing i = false := by simpa [hfin] using hallowed
  cases i with
  | init =>
    rw [commandEffect, initEffect_congr h]
    exact ⟨rfl, fun _ => rfl⟩
  | absorb _ | finalize => cases hneeds
  | rdstatus | rddigest _ | rdhex _ => cases hi

/-! ### The buffer's bytes above FILL (10_state.md R16) -/

theorem sameButBufferTail_kept : HashStateRelation SameButBufferTail where
  same h := by rw [SameButHashState, h.1]
  raise c info h := ⟨congrArg (State.raise c info) h.1, h.2⟩
  accept w h := ⟨congrArg (State.accept w) h.1, h.2⟩
  record v h := ⟨congrArg (State.record v) h.1, h.2⟩
  take rest h := ⟨congrArg (State.take rest) h.1, h.2⟩
  poll h := ⟨congrArg requeueWait h.1, h.2⟩
  reset rest h := ⟨by rw [h.1]; rfl, fun _ _ _ => rfl⟩

section
variable {x y : Block} {n : Nat} (h : ∀ (k : Nat) (hk : k < 64), k < n → x[k] = y[k])
include h

/-- Buffers that agree below `n` agree below `n + 1` once a byte is written at `n`. -/
theorem set_agree (b : Byte) (hn : n < 64) (k : Nat) (hk : k < 64) (hkn : k < n + 1) : (x.set n b)[k] = (y.set n b)[k] := by
  by_cases hnk : n = k
  · simp [hnk]
  · simpa [Vector.getElem_set_ne, hnk] using h k hk (by omega)

theorem take_toList_eq (hn : n < 64) : x.toList.take n = y.toList.take n := by
  refine List.ext_getElem (by simp) fun k hk _ => ?_
  have hkn : k < n := by simp at hk; omega
  simpa using h k (by omega) hkn

end

/-- The padding holds the message bytes of the buffer and no others (42_finalize.md R111). -/
theorem paddingBlocks_congr {x y : Block} {n : Nat} (h : x.toList.take n = y.toList.take n) (len : Count) :
    paddingBlocks x n len = paddingBlocks y n len := by
  simp only [paddingBlocks, firstPadding, finalPadding, marked, h]

/-- Each completion writes BUF above FILL or reads it below. -/
theorem commandEffect_sameButBufferTail (i : Instr) {s t : State} (hfill : s.fill.toNat < 64) (h : SameButBufferTail s t) :
    OutcomesAgree SameButBufferTail (finish (commandEffect i s)) (finish (commandEffect i t)) := by
  obtain ⟨hsame, htail⟩ := h
  generalize t.buf = buf at hsame htail
  subst hsame
  cases i with
  | init => exact ⟨rfl, fun _ _ _ => rfl⟩
  | absorb b =>
    by_cases hfull : s.fill.toNat = 63
    · have hset : buf.set s.fill.toNat b = s.buf.set s.fill.toNat b :=
        Vector.ext fun k hk => (set_agree htail b hfill k hk (by omega)).symm
      rw [commandEffect, absorbEffect_block b hfull, absorbEffect_block (s := { s with buf := buf }) b hfull, hset]
      exact ⟨rfl, fun _ _ _ => rfl⟩
    · have hroom : s.fill.toNat < 63 := by omega
      rw [commandEffect, absorbEffect_append b hroom, absorbEffect_append (s := { s with buf := buf }) b hroom]
      refine ⟨rfl, fun k hk hkn => set_agree htail b hfill k hk ?_⟩
      simp at hkn
      omega
  | finalize =>
    have hchain : finalChain { s with buf := buf } = finalChain s :=
      congrArg (List.foldl compress s.h) (paddingBlocks_congr (take_toList_eq htail hfill).symm _)
    simp only [commandEffect, finalizeEffect, hchain, if_pos hfill]
    exact ⟨rfl, htail⟩
  | rdstatus | rddigest _ | rdhex _ => exact ⟨rfl, htail⟩

/-- Settles O52, from the completions. -/
theorem bufferTailUnobservable : Obligations.BufferTailUnobservable := fun _ _ hfill h =>
  step_agree sameButBufferTail_kept h fun i _ _ _ => commandEffect_sameButBufferTail i (Nat.lt_succ_of_le hfill) h

/-! ### What a read reveals (10_state.md R33) -/

/-- Settles O50: both the outcome and the value of a read are determined by the four visible elements. -/
theorem readsRevealOnlyVisibleState : Obligations.ReadsRevealOnlyVisibleState := by
  intro i a s t s' hi hfault hbusy hfin hdigest hout hs'
  have hvalue : readValue i t = readValue i s := readValue_congr i hbusy hfin hdigest
  have hagree : OutcomesAgree (fun s' t' => t'.out = s'.out ∧ t'.fault = s'.fault) (exec i s) (exec i t) := by
    rw [exec_of_encode_rd hi]
    exact hostRead_agree hfault hbusy hfin (fun c => ⟨hout, rfl⟩) fun _ => ⟨by simp [hout, hvalue], hfault⟩
  rw [hs'] at hagree
  cases ht : exec i t with
  | next t' => rw [ht] at hagree; exact ⟨t', rfl, hagree⟩
  | fault f | refused r => rw [ht] at hagree; exact hagree.elim

end Sys2Proof.Proofs

namespace Sys2Proof.Proofs

open Sys2Proof.Machine Sys2Proof.Laws

/-! ### The padding blocks by fill (42_finalize.md R111 to R115) -/

/-- R113: up to 55 buffered bytes leave room for the marker and the length in one block. -/
theorem finalPadding_oneBlock (buf : Block) {n : Nat} (hn : n ≤ 55) (len : Count) :
    finalPadding buf n len = buf.toList.take n ++ [0x80#8] ++ zeros (55 - n) ++ be64bytes len := by
  have hsmall : ¬n ≥ 56 := by omega
  have hzeros : 56 - (n + 1) = 55 - n := by omega
  simp only [finalPadding, if_neg hsmall, marked_length buf (show n ≤ 63 by omega), hzeros]
  rfl

/-- R114: from 56 buffered bytes on the length stands in a block of its own. -/
theorem finalPadding_twoBlocks (buf : Block) {n : Nat} (hn : 56 ≤ n) (len : Count) :
    finalPadding buf n len = zeros 56 ++ be64bytes len := by
  simp only [finalPadding, if_pos hn]
  rfl

theorem paddingBlocks_oneBlock (buf : Block) {n : Nat} (hn : n ≤ 55) (len : Count) :
    paddingBlocks buf n len = [blockOf (buf.toList.take n ++ [0x80#8] ++ zeros (55 - n) ++ be64bytes len)] := by
  rw [← finalPadding_oneBlock buf hn len]
  exact if_neg (by omega)

theorem paddingBlocks_twoBlocks (buf : Block) {n : Nat} (hn : 56 ≤ n) (len : Count) :
    paddingBlocks buf n len =
      [blockOf (buf.toList.take n ++ [0x80#8] ++ zeros (63 - n)), blockOf (zeros 56 ++ be64bytes len)] := by
  rw [← finalPadding_twoBlocks buf hn len]
  exact if_pos hn

theorem paddingBlocks_getLast? (buf : Block) (n : Nat) (len : Count) :
    (paddingBlocks buf n len).getLast? = some (blockOf (finalPadding buf n len)) := by
  rw [paddingBlocks]
  split <;> rfl

theorem be64bytes_getD_toNat (v : Count) (k : Fin 8) :
    ((be64bytes v).getD k.val 0#8).toNat = v.toNat / 2 ^ (8 * (7 - k.val)) % 256 := by
  fin_cases k <;> simp [be64bytes, BitVec.extractLsb'_toNat, Nat.shiftRight_eq_div_pow]

/-- R115: in either case 56 bytes precede the length. -/
theorem finalPadding_getD_length (buf : Block) {n : Nat} (hn : n ≤ 63) (len : Count) (k : Nat) :
    (finalPadding buf n len).getD (56 + k) 0#8 = (be64bytes len).getD k 0#8 := by
  obtain ⟨p, hp⟩ : ∃ p, finalPadding buf n len = p ++ be64bytes len := ⟨_, rfl⟩
  have hlen : p.length = 56 := by
    have htotal := finalPadding_length buf hn len
    rw [hp, List.length_append, be64bytes_length] at htotal
    omega
  rw [hp, List.getD_append_right _ _ _ _ (by omega), hlen, Nat.add_sub_cancel_left]

/-- Settles O13, from the two forms of the final block. -/
theorem paddingBlocksByFill : Obligations.PaddingBlocksByFill := by
  refine ⟨fun buf n len => ⟨fun hn => ⟨?_, paddingBlocks_oneBlock buf hn len⟩,
    fun hn hn' => ⟨?_, ?_, paddingBlocks_twoBlocks buf hn len⟩,
    fun hn => ⟨_, paddingBlocks_getLast? buf n len, fun k => ?_⟩⟩, by decide⟩
  · rw [← finalPadding_oneBlock buf hn len]
    exact finalPadding_length buf (by omega) len
  · exact firstPadding_length buf hn'
  · rw [← finalPadding_twoBlocks buf hn len]
    exact finalPadding_length buf hn' len
  · rw [← be64bytes_getD_toNat, ← finalPadding_getD_length buf hn len]
    simp [blockOf]

/-! ### The commands in flight (40_init_absorb.md R70, R72, 42_finalize.md R110) -/

/-- Settles O21, from a command's acceptance and completion and INIT's effect. -/
theorem initAcceptedThenCompleted : Obligations.InitAcceptedThenCompleted := fun _ hf =>
  ⟨fun hb => command_accepts hf hb (.inl rfl), fun hb hp => command_completes hf hb hp⟩

/-- Settles O22: ABSORB's effect appends, or compresses at the 64th byte. -/
theorem absorbAcceptedThenCompleted : Obligations.AbsorbAcceptedThenCompleted := by
  intro b s hf
  rw [← absorbWord_eq_add]
  refine ⟨fun hb hfin => command_accepts hf hb (.inr hfin), fun hb hp hk => ?_⟩
  have hcomplete : exec (.absorb b) s = finish (absorbEffect b s) := command_completes hf hb hp
  rw [hcomplete]
  by_cases hfull : s.fill.toNat = 63
  · rw [absorbEffect_block b hfull, if_pos hfull]
    rfl
  · rw [absorbEffect_append b (by omega), if_neg hfull]
    rfl

/-- FINALIZE in flight leaves the chaining value of the padding blocks and its serialisation. -/
theorem exec_finalize_completes {s : State} (hf : s.fault = none) (hb : s.busy = true) (hp : s.pending = some 0x0300#16)
    (hfill : s.fill.toNat < 64) :
    exec .finalize s = .next
      { s with h := finalChain s, digest := serialize (finalChain s), finalized := true, pending := none, busy := false } := by
  have hcomplete : exec .finalize s = finish (finalizeEffect s) := command_completes hf hb hp
  rw [hcomplete, finalizeEffect, if_pos hfill]
  rfl

/-- Settles O23: the padding blocks are one or two by FILL. -/
theorem finalizeAcceptedThenCompleted : Obligations.FinalizeAcceptedThenCompleted := by
  refine fun s hf => ⟨fun hb hfin => command_accepts hf hb (.inr hfin), fun hb hp hn h' hh => ?_, fun hb hp hn hn' h' hh => ?_⟩
  · have hchain : h' = finalChain s := by rw [finalChain, paddingBlocks_oneBlock _ hn]; exact hh
    rw [hchain]
    exact exec_finalize_completes hf hb hp (by omega)
  · have hchain : h' = finalChain s := by rw [finalChain, paddingBlocks_twoBlocks _ hn]; exact hh
    rw [hchain]
    exact exec_finalize_completes hf hb hp (by omega)

/-! ### The faults of the ports (60_exceptions.md R146, R147) -/

/-- INIT's is the only word of a command that the finalized phase allows. -/
theorem needsAbsorbing_of_ne_init {i : Instr} {w : CmdWord} (hi : encode i = .cmd w) (hw : w ≠ 0x0100#16) : needsAbsorbing i = true := by
  cases i with
  | init => exact absurd (Transaction.cmd.inj hi).symm hw
  | absorb _ | finalize => rfl
  | rdstatus | rddigest _ | rdhex _ => cases hi

/-- STATUS's is the only address of a read that needs no digest. -/
theorem needsDigest_of_ne_status {i : Instr} {a : Addr} (hi : encode i = .rd a) (ha : a ≠ 0#7) : needsDigest i = true := by
  cases i with
  | rdstatus => exact absurd (Transaction.rd.inj hi).symm ha
  | rddigest _ | rdhex _ => rfl
  | init | absorb _ | finalize => cases hi

/-- Settles O30: the decoder raises F1 and F2, and a word it passes F3. -/
theorem writeFaultsInPriorityOrder : Obligations.WriteFaultsInPriorityOrder := by
  intro s w rest hf hb hp
  obtain ⟨hdefined, hopcode, hoperand⟩ := decodersRejectExactlyReservedSpace.1 w
  rw [step_request hf hp (by simp [hb])]
  refine ⟨fun hop => ?_, fun hop himm => ?_, fun hop himm hw hfin => ?_⟩
  · rw [requestMove_reserved (tr := .cmd w) _ (hopcode.mpr hop)]
    rfl
  · rw [requestMove_reserved (tr := .cmd w) _ (hoperand.mpr ⟨hop, himm⟩)]
    rfl
  · obtain ⟨i, hi⟩ := hdefined.mpr ⟨hop, himm⟩
    have hencode : encode i = .cmd w := encode_of_decodeCmd hi
    rw [requestMove_txn (tr := .cmd w) _ hi, answer, exec_of_encode_cmd hencode, needsAbsorbing_of_ne_init hencode hw]
    exact command_afterFinalize hf hb hfin

/-- Settles O31: the decoder raises F6, and a read that it passes F5 or F4. -/
theorem readFaultsInPriorityOrder : Obligations.ReadFaultsInPriorityOrder := by
  intro s a rest hf hlat hp
  obtain ⟨hdefined, hreserved⟩ := decodersRejectExactlyReservedSpace.2 a
  rw [step_request hf hp fun hb => ⟨rfl, hlat hb⟩]
  have hread (ha : a.defined = true) (hstatus : a ≠ 0#7) :
      ∃ value, answer (requestMove (.txn (.rd a)) (s.take rest)) = hostRead a true value (s.take rest) := by
    obtain ⟨i, hi⟩ := hdefined.mpr ha
    have hencode : encode i = .rd a := encode_of_decodeRd hi
    exact ⟨readValue i, by
      rw [requestMove_txn (tr := .rd a) _ hi, answer, exec_of_encode_rd hencode, needsDigest_of_ne_status hencode hstatus]⟩
  refine ⟨fun ha => ?_, fun ha hstatus hb => ?_, fun ha hstatus hb hfin => ?_⟩
  · rw [requestMove_reserved (tr := .rd a) _ (hreserved.mpr ha)]
    rfl
  · obtain ⟨value, hexec⟩ := hread ha hstatus
    rw [hexec]
    exact hostRead_busy hf hb
  · obtain ⟨value, hexec⟩ := hread ha hstatus
    rw [hexec]
    exact hostRead_notFinalized hf hb hfin

end Sys2Proof.Proofs

namespace Sys2Proof.Proofs

open Sys2Proof.Machine Sys2Proof.Laws

/-! ### The views of DIGEST (20_memory.md R34 to R36, 43_readout.md R128 to R132) -/

/-- The bytes of a word, put together again most significant first (00_scope.md R10). -/
theorem be32_extractLsb' (w : Word) :
    be32 (w.extractLsb' 24 8) (w.extractLsb' 16 8) (w.extractLsb' 8 8) (w.extractLsb' 0 8) = w := by
  rw [be32, BitVec.extractLsb'_append_extractLsb'_eq_extractLsb' (by rfl), BitVec.extractLsb'_append_extractLsb'_eq_extractLsb' (by rfl),
    BitVec.extractLsb'_append_extractLsb'_eq_extractLsb' (by rfl), BitVec.extractLsb'_eq_self]

theorem toNat_append_eq_add {m n : Nat} (x : BitVec m) (y : BitVec n) : (x ++ y).toNat = 2 ^ n * x.toNat + y.toNat := by
  rw [BitVec.toNat_append, ← Nat.shiftLeft_add_eq_or_of_lt y.isLt, Nat.shiftLeft_eq, Nat.mul_comm]

theorem be32_toNat (b0 b1 b2 b3 : Byte) :
    (be32 b0 b1 b2 b3).toNat = 256 * (256 * (256 * b0.toNat + b1.toNat) + b2.toNat) + b3.toNat := by
  simp only [be32, toNat_append_eq_add, Nat.reducePow]

/-- R35: the words read from a serialised chaining value are its words. -/
theorem digestWord_serialize (h : Chain) (i : Fin 8) : digestWord (serialize h) (BitVec.ofFin i) = h[i] := by
  have hbyte := serialize_getElem h i
  calc digestWord (serialize h) (BitVec.ofFin i)
      = be32 (h[i].extractLsb' 24 8) (h[i].extractLsb' 16 8) (h[i].extractLsb' 8 8) (h[i].extractLsb' 0 8) :=
        congr (congr (congrArg₂ be32 (hbyte 0) (hbyte 1)) (hbyte 2)) (hbyte 3)
    _ = h[i] := be32_extractLsb' h[i]

/-- R129: the digit's character has the nibble as its value. -/
theorem hexValue_hexdigit (v : BitVec 4) : hexValue (Char.ofNat (hexdigit v).toNat) = some v.toNat := by
  revert v
  decide

/-- The value of hex character `j` of a digest, read as a digit. -/
def hexCharValue (d : Digest) (j : Nat) : Nat := (hexValue (Char.ofNat (hexchar d (BitVec.ofNat 6 j)).toNat)).getD 0

theorem hexCharValue_even (d : Digest) (p : Fin 32) : hexCharValue d (2 * p.val) = d[p].toNat / 16 := by
  rw [hexCharValue, hexchar_even, hexValue_hexdigit, highNibble_toNat, Option.getD_some]

theorem hexCharValue_odd (d : Digest) (p : Fin 32) : hexCharValue d (2 * p.val + 1) = d[p].toNat % 16 := by
  rw [hexCharValue, hexchar_odd, hexValue_hexdigit, lowNibble_toNat, Option.getD_some]

/-- Two hex characters read after the number `acc` append their byte to it. -/
theorem hexCharValue_pair (d : Digest) (p : Fin 32) (acc : Nat) :
    16 * (16 * acc + hexCharValue d (2 * p.val)) + hexCharValue d (2 * p.val + 1) = 256 * acc + d[p].toNat := by
  rw [hexCharValue_even, hexCharValue_odd]
  omega

/-- R36: the eight hex characters of a digest word spell its four bytes. -/
theorem foldl_hexCharValue (d : Digest) (i : Fin 8) :
    (List.range 8).foldl (fun acc k => 16 * acc + hexCharValue d (8 * i.val + k)) 0 = (digestWord d (BitVec.ofFin i)).toNat := by
  have hpair (k : Fin 4) (acc : Nat) :
      16 * (16 * acc + hexCharValue d (8 * i.val + 2 * k.val)) + hexCharValue d (8 * i.val + (2 * k.val + 1)) =
        256 * acc + d[4 * i.val + k.val].toNat := by
    have hindex : 8 * i.val + 2 * k.val = 2 * (4 * i.val + k.val) := by omega
    rw [← Nat.add_assoc, hindex]
    exact hexCharValue_pair d ⟨4 * i.val + k.val, by omega⟩ acc
  calc (List.range 8).foldl (fun acc k => 16 * acc + hexCharValue d (8 * i.val + k)) 0
      = 256 * (256 * (256 * (256 * 0 + d[4 * i.val].toNat) + d[4 * i.val + 1].toNat) + d[4 * i.val + 2].toNat) +
          d[4 * i.val + 3].toNat := by
        refine (hpair 3 _).trans (congrArg (256 * · + _) ?_)
        refine (hpair 2 _).trans (congrArg (256 * · + _) ?_)
        exact (hpair 1 _).trans (congrArg (256 * · + _) (hpair 0 0))
    _ = (be32 d[4 * i.val] d[4 * i.val + 1] d[4 * i.val + 2] d[4 * i.val + 3]).toNat := by
        rw [be32_toNat, Nat.mul_zero, Nat.zero_add]
    _ = (digestWord d (BitVec.ofFin i)).toNat := rfl

/-- Settles O17, from the two views of a digest's bytes. -/
theorem digestViewsAgree : Obligations.DigestViewsAgree := ⟨digestWord_serialize, foldl_hexCharValue⟩

theorem encodeHex_getElem (d : Digest) {j : Nat} (hj : j < (encodeHex d).length) : (encodeHex d)[j] = hexchar d (BitVec.ofNat 6 j) := by
  have hj' : j < 64 := by simpa [encodeHex] using hj
  have hindex : BitVec.ofFin (w := 6) ⟨j, hj'⟩ = BitVec.ofNat 6 j := BitVec.eq_of_toNat_eq (Nat.mod_eq_of_lt hj').symm
  simp [encodeHex, hindex]

/-- Settles O18: the characters give back the two nibbles of every byte. -/
theorem encodeHexIsInjective : Obligations.EncodeHexIsInjective := by
  have hlength (d : Digest) : (encodeHex d).length = 64 := by simp [encodeHex]
  refine ⟨hlength, fun d e heq => ?_⟩
  have hvalue (j : Nat) (hj : j < 64) : hexCharValue d j = hexCharValue e j := by
    have hchar : hexchar d (BitVec.ofNat 6 j) = hexchar e (BitVec.ofNat 6 j) := by
      rw [← encodeHex_getElem d (by rwa [hlength]), ← encodeHex_getElem e (by rwa [hlength])]
      simp only [heq]
    rw [hexCharValue, hexCharValue, hchar]
  refine Vector.ext fun p hp => BitVec.eq_of_toNat_eq ?_
  have hhigh : d[p].toNat / 16 = e[p].toNat / 16 :=
    (hexCharValue_even d ⟨p, hp⟩).symm.trans ((hvalue _ (by omega)).trans (hexCharValue_even e ⟨p, hp⟩))
  have hlow : d[p].toNat % 16 = e[p].toNat % 16 :=
    (hexCharValue_odd d ⟨p, hp⟩).symm.trans ((hvalue _ (by omega)).trans (hexCharValue_odd e ⟨p, hp⟩))
  omega

/-! ### The reads (43_readout.md R127, R128, R131) -/

/-- Settles O25: STATUS needs no digest, and its bits are BUSY and FINALIZED. -/
theorem rdstatusReturnsStatus : Obligations.RdstatusReturnsStatus := by
  intro s hf
  have hstatus : statusWord s = BitVec.ofNat 32 (2 * s.finalized.toNat + s.busy.toNat) := by
    rw [statusWord]
    cases s.finalized <;> cases s.busy <;> rfl
  rw [← hstatus]
  exact hostRead_needsNoDigest hf

/-- With a valid digest every read records its value. -/
theorem exec_read_valid {i : Instr} {a : Addr} {s : State} (hi : encode i = .rd a) (hf : s.fault = none) (hb : s.busy = false)
    (hfin : s.finalized = true) : exec i s = .next (s.record (readValue i s)) := by
  rw [exec_of_encode_rd hi]
  exact hostRead_records hf fun _ => ⟨hb, hfin⟩

/-- Settles O26: a valid digest is read. -/
theorem rddigestReturnsDigestWord : Obligations.RddigestReturnsDigestWord := fun _ _ hf hb hfin => exec_read_valid rfl hf hb hfin

/-- R129 in one equation. -/
theorem hexdigit_toNat (v : BitVec 4) : (hexdigit v).toNat = if v.toNat ≤ 9 then 0x30 + v.toNat else 0x61 + (v.toNat - 10) := by
  split
  · next hv => exact hexdigit_toNat_of_le_nine hv
  · next hv => exact hexdigit_toNat_of_ten_le (by omega)

/-- R130: the character shows the high or the low nibble of its byte by the parity of its index. -/
theorem hexchar_eq_hexdigit (d : Digest) (j : Fin 64) :
    ∃ v : BitVec 4, hexchar d (BitVec.ofFin j) = hexdigit v ∧
      v.toNat = if j.val % 2 = 0 then d[j.val / 2].toNat / 16 else d[j.val / 2].toNat % 16 := by
  by_cases hj : j.val % 2 = 0
  · exact ⟨_, if_pos hj, by rw [highNibble_toNat, if_pos hj]; rfl⟩
  · exact ⟨_, if_neg hj, by rw [lowNibble_toNat, if_neg hj]; rfl⟩

/-- Settles O27: a valid digest is read, and its character is the nibble's digit. -/
theorem rdhexReturnsHexCharacter : Obligations.RdhexReturnsHexCharacter := by
  intro s j v hf hb hfin hv
  obtain ⟨nibble, hchar, hnibble⟩ := hexchar_eq_hexdigit s.digest j
  have hread : exec (.rdhex (BitVec.ofFin j)) s = .next (s.record ((hexchar s.digest (BitVec.ofFin j)).setWidth 32)) :=
    exec_read_valid rfl hf hb hfin
  rw [hread, hchar, ← BitVec.ofNat_toNat, hexdigit_toNat, hnibble.trans hv.symm]
  rfl

/-- Settles O19, by evaluation of the reset state. -/
theorem resetLeavesSpecValues : Obligations.ResetLeavesSpecValues := by
  unfold Obligations.ResetLeavesSpecValues
  decide

end Sys2Proof.Proofs

namespace Sys2Proof.Proofs

open Sys2Proof.Machine Sys2Proof.Laws

/-! ### What each command leaves unchanged (40_init_absorb.md, 42_finalize.md R120) -/

/-- Settles O33, by the cases of a command: INIT never raises F3. -/
theorem initFrame : Obligations.InitFrame := by
  intro s t ht
  obtain ⟨hf, ⟨hb, -, u, hu, rfl⟩ | ⟨hb, -, rfl⟩ | ⟨-, hnever, -⟩ | ⟨hb, -, rfl⟩⟩ := command_cases ht
  · cases hu
    simp [hb]
  · simp [hb]
  · cases hnever
  · simp [hb]

/-- Settles O34, by the cases of a command, and of ABSORB's effect where it completes. -/
theorem absorbFrame : Obligations.AbsorbFrame := by
  intro b s t ht
  obtain ⟨hf, ⟨hb, -, u, hu, rfl⟩ | ⟨hb, -, rfl⟩ | ⟨hb, -, hfin, rfl⟩ | ⟨hb, hphase, rfl⟩⟩ := command_cases ht
  · have hidle : s.busy ≠ false := by simp [hb]
    obtain ⟨hk, hwrites⟩ := absorbEffect_cases hu
    have hother (k : Fin 64) (hne : k.val ≠ s.fill.toNat) : (s.buf.set s.fill.toNat b)[k] = s.buf[k] :=
      Vector.getElem_set_ne hk k.isLt hne.symm
    rcases hwrites with ⟨hfull, rfl⟩ | ⟨-, rfl⟩
    · exact ⟨rfl, rfl, rfl, rfl, hother, fun hne => absurd hfull hne, fun h => absurd h hidle, fun _ => rfl, fun _ => ⟨rfl, rfl⟩⟩
    · exact ⟨rfl, rfl, rfl, rfl, hother, fun _ => ⟨rfl, rfl⟩, fun h => absurd h hidle, fun _ => rfl, fun _ => ⟨rfl, rfl⟩⟩
  · simp
  · simp [hb, hfin]
  · have hfin : s.finalized = false := by simpa using hphase
    simp [hb, hfin]

/-- Settles O35, by the cases of a command. -/
theorem finalizeFrame : Obligations.FinalizeFrame := by
  intro s t ht
  obtain ⟨hf, ⟨hb, -, u, hu, rfl⟩ | ⟨hb, -, rfl⟩ | ⟨hb, -, hfin, rfl⟩ | ⟨hb, hphase, rfl⟩⟩ := command_cases ht
  · obtain ⟨-, rfl⟩ := finalizeEffect_cases hu
    simp [hb]
  · simp [hb]
  · simp [hb, hfin]
  · have hfin : s.finalized = false := by simpa using hphase
    simp [hb, hfin]

/-- Settles O36, by the cases of a read. -/
theorem readsChangeNoEngineState : Obligations.ReadsChangeNoEngineState := by
  intro i a s t hi ht
  rw [exec_of_encode_rd hi] at ht
  obtain ⟨hf, ⟨-, -, rfl⟩ | ⟨-, -, -, rfl⟩ | ⟨-, rfl⟩⟩ := hostRead_cases ht
  · exact ⟨rfl, .inr ⟨rfl, rfl⟩⟩
  · exact ⟨rfl, .inr ⟨rfl, rfl⟩⟩
  · exact ⟨rfl, .inl ⟨hf, _, rfl⟩⟩

/-! ### Who writes DIGEST, FINALIZED and H (10_state.md R14, R19, R22) -/

/-- An operation completes, or it writes none of H, FINALIZED, DIGEST and the port. -/
theorem exec_completes_or_data_eq {i : Instr} {s t : State} (ht : exec i s = .next t) :
    (∃ w u, encode i = .cmd w ∧ s.busy = true ∧ s.pending = some w ∧ commandEffect i s = .next u ∧ t = u.complete) ∨
    (t.h = s.h ∧ t.finalized = s.finalized ∧ t.digest = s.digest ∧ t.port = s.port) := by
  obtain ⟨-, ⟨w, hi, hcmd⟩ | ⟨a, -, hread⟩⟩ := exec_cases ht
  · rcases hcmd with ⟨hb, hp, u, hu, rfl⟩ | ⟨-, -, rfl⟩ | ⟨-, -, -, rfl⟩ | ⟨-, -, rfl⟩
    · exact .inl ⟨w, u, hi, hb, hp, hu, rfl⟩
    all_goals exact .inr ⟨rfl, rfl, rfl, rfl⟩
  · rcases hread with ⟨c, rfl⟩ | rfl
    all_goals exact .inr ⟨rfl, rfl, rfl, rfl⟩

theorem exec_digest_ne {i : Instr} {s t : State} (ht : exec i s = .next t) (hne : t.digest ≠ s.digest) :
    i = .finalize ∧ s.busy = true ∧ s.pending = some 0x0300#16 := by
  rcases exec_completes_or_data_eq ht with ⟨w, u, hi, hb, hp, hu, rfl⟩ | ⟨-, -, hsame, -⟩
  case inr => exact absurd hsame hne
  cases i with
  | finalize => exact ⟨rfl, hb, hp.trans (congrArg some (Transaction.cmd.inj hi).symm)⟩
  | absorb b =>
    have hsame : u.digest = s.digest := by
      obtain ⟨-, ⟨-, rfl⟩ | ⟨-, rfl⟩⟩ := absorbEffect_cases hu <;> rfl
    exact absurd hsame hne
  | init => cases hu; exact absurd rfl hne
  | rdstatus | rddigest _ | rdhex _ => cases hi

theorem pollWait_digest (s : State) : (pollWait s).digest = s.digest := by
  rw [pollWait]
  split <;> rfl

/-- Settles O37, by the cases of a step. -/
theorem onlyFinalizeWritesDigest : Obligations.OnlyFinalizeWritesDigest := by
  refine ⟨fun i s t => exec_digest_ne, fun s t ht hne hreset hfaulted => ?_⟩
  rcases step_cases ht with ⟨m, rest, hf, ha, -⟩ | ⟨-, -, -, rfl⟩ | ⟨-, hb, w, i, hw, -, he⟩ | ⟨hf, r, rest, hp, hlat, hmove⟩
  · have hnone := afterReset_eq_none (hfaulted (by simp [hf]))
    simp [hnone] at ha
  · exact absurd rfl hne
  · obtain ⟨-, hwriter⟩ := exec_digest_ne he hne
    exact hwriter
  · rcases hmove with ⟨tr, i, -, -, he⟩ | ⟨tr, c, -, -, rfl⟩ | ⟨-, rfl⟩ | ⟨rfl, -⟩
    · obtain ⟨-, hwriter⟩ := exec_digest_ne he hne
      exact hwriter
    · exact absurd rfl hne
    · exact absurd (pollWait_digest _) hne
    · obtain ⟨hb, hzero⟩ := hreset hf (by rw [hp]; rfl)
      exact absurd hzero (hlat hb).2

/-- Settles O38: an operation that does not complete writes none of the three, and each effect writes its own. -/
theorem writersOfPhaseAndChain : Obligations.WritersOfPhaseAndChain := by
  intro i s t ht
  rcases exec_completes_or_data_eq ht with ⟨w, u, hi, -, -, hu, rfl⟩ | ⟨hh, hfin, -, -⟩
  case inr => simp +contextual [hh, hfin]
  cases i with
  | init => cases hu; simp
  | absorb b =>
    obtain ⟨-, ⟨hfull, rfl⟩ | ⟨-, rfl⟩⟩ := absorbEffect_cases hu
    · simp +contextual [hfull]
    · simp +contextual
  | finalize => obtain ⟨-, rfl⟩ := finalizeEffect_cases hu; simp
  | rdstatus | rddigest _ | rdhex _ => cases hi

end Sys2Proof.Proofs

namespace Sys2Proof.Proofs

open Sys2Proof.Machine Sys2Proof.Laws

/-! ### The word placed to run next (30_encoding.md section 3) -/

theorem encode_wellFormed : ∀ i : Instr, (encode i).wellFormed = true
  | .init => EncodesDefined.init
  | .absorb b => EncodesDefined.absorb b
  | .finalize => EncodesDefined.finalize
  | .rdstatus => EncodesDefined.rdstatus
  | .rddigest i => EncodesDefined.rddigest i
  | .rdhex j => EncodesDefined.rdhex j

/-- The opcode table's words are the encodings of what they decode to. -/
theorem transactionOfTable_of_decodeTableWord {nbits w : Nat} {i : Instr} (h : decodeTableWord nbits w = some i) :
    transactionOfTable nbits w = some (encode i) := by
  rw [decodeTableWord] at h
  split at h
  · next t ht =>
    split at h
    · next j hj =>
      cases h
      rw [ht, decode_eq_ok_iff.mp hj]
    · cases h
  · cases h

/-- Settles O41: in front of an idle command port, or of the latency's steps for a read, the host's step is the next. -/
theorem placedWordRunsNext : Obligations.PlacedWordRunsNext := by
  intro s nbits w i hi
  refine ⟨encode_wellFormed i, ?_⟩
  have hplaced : s.withFetchWord nbits w = placeNext (encode i) s := by
    rw [State.withFetchWord, transactionOfTable_of_decodeTableWord hi]
  rw [hplaced]
  cases ht : encode i with
  | cmd c =>
    have hstep := stepRunsRequestedInstruction (placeNext (.cmd c) s) (.cmd c) i s.port rfl rfl (decode_eq_ok_iff.mpr ht) nofun
    exact ⟨_, hstep, rfl, rfl, rfl, rfl, rfl, rfl, rfl, rfl, rfl, rfl, fun _ _ => ⟨rfl, rfl⟩, nofun⟩
  | rd a =>
    have hstep := stepRunsRequestedInstruction (placeNext (.rd a) s) (.rd a) i s.port rfl rfl (decode_eq_ok_iff.mpr ht)
      fun _ => ⟨⟨a, rfl⟩, Nat.succ_ne_zero s.lat⟩
    exact ⟨_, hstep, rfl, rfl, rfl, rfl, rfl, rfl, rfl, rfl, rfl, rfl, nofun, fun _ _ => ⟨rfl, rfl⟩⟩

/-! ### Runs (70_reset_and_hazards.md R169, R170) -/

theorem run_succ {s t : State} (h : step s = .next t) (n : Nat) : Host.Core.run core (n + 1) s = Host.Core.run core n t := by
  have hcore : core.step s = .next t := h
  simp only [Host.Core.run, hcore]

/-- A run that answers a state begins with a step that does. -/
theorem run_succ_cases {n : Nat} {s t : State} (h : Host.Core.run core (n + 1) s = .next t) :
    ∃ u, step s = .next u ∧ Host.Core.run core n u = .next t := by
  cases hs : step s with
  | next u => exact ⟨u, rfl, run_succ hs n ▸ h⟩
  | fault f =>
    have hcore : core.step s = .fault f := hs
    simp [Host.Core.run, hcore] at h
  | refused r =>
    have hcore : core.step s = .refused r := hs
    simp [Host.Core.run, hcore] at h

theorem run_add {m : Nat} {s t : State} (h : Host.Core.run core m s = .next t) (n : Nat) :
    Host.Core.run core (m + n) s = Host.Core.run core n t := by
  induction m generalizing s with
  | zero => cases h; rw [Nat.zero_add]
  | succ m ih =>
    obtain ⟨u, hu, hrest⟩ := run_succ_cases h
    rw [Nat.add_right_comm, run_succ hu, ih hrest]

theorem run_keeps_inv {n : Nat} {s t : State} (hinv : Inv s) (h : Host.Core.run core n s = .next t) : Inv t := by
  induction n generalizing s with
  | zero => cases h; exact hinv
  | succ n ih =>
    obtain ⟨u, hu, hrest⟩ := run_succ_cases h
    exact ih (stepKeepsInvariants s u hinv hu) hrest

/-- The engine's step in a state of the invariants: the command in flight is over, the port and the record are as they were. -/
theorem step_completes {s : State} (hinv : Inv s) (hf : s.fault = none) (hb : s.busy = true)
    (hp : s.port = [] ∨ ∃ r rest, s.port = r :: rest ∧ (isCommandWrite r = true ∨ s.lat = 0)) :
    ∃ t, step s = .next t ∧ Inv t ∧ t.busy = false ∧ t.fault = none ∧ t.port = s.port ∧ t.out = s.out := by
  obtain ⟨w, i, hw, hi⟩ := pending_of_busy hinv hb
  obtain ⟨t, ht, hkept⟩ := exec_completes hi hf hb hw (Nat.lt_succ_of_le hinv.fill_le)
  have hstep : step s = .next t := by
    rw [step_engine hf hb hp, engineMove_pending hw (decodeCmd_eq_ok_iff.mpr hi)]
    exact ht
  exact ⟨t, hstep, stepKeepsInvariants s t hinv hstep, hkept⟩

/-- On an idle engine a WAIT is over at once. -/
theorem run_wait_idle {s : State} {rest : List Req} (hf : s.fault = none) (hp : s.port = .wait :: rest) (hb : s.busy = false) :
    ∃ t, Host.Core.run core 1 s = .next t ∧ t.port = rest ∧ t.busy = false ∧ t.fault = none ∧ t.out = s.out :=
  ⟨_, run_succ ((waitPollsStatus s rest hf hp).1 hb) 0, rfl, hb, hf, rfl⟩

/-- Settles O44, by induction on the latency: each poll of a busy engine takes one from it, and the completion ends the wait. -/
theorem everyWaitEnds : Obligations.EveryWaitEnds := by
  intro s rest hinv hf hp
  induction hlat : s.lat generalizing s with
  | zero =>
    cases hb : s.busy with
    | false =>
      obtain ⟨t, ht, hdone⟩ := run_wait_idle hf hp hb
      exact ⟨1, t, by omega, ht, hdone⟩
    | true =>
      obtain ⟨u, hu, -, hidle, hnofault, hport, hout⟩ := step_completes hinv hf hb (.inr ⟨_, rest, hp, .inr hlat⟩)
      obtain ⟨t, ht, hdone⟩ := run_wait_idle hnofault (hport.trans hp) hidle
      exact ⟨2, t, by omega, (run_succ hu 1).trans ht, hout ▸ hdone⟩
  | succ l ih =>
    cases hb : s.busy with
    | false =>
      obtain ⟨t, ht, hdone⟩ := run_wait_idle hf hp hb
      exact ⟨1, t, by omega, ht, hdone⟩
    | true =>
      have hpoll := (waitPollsStatus s rest hf hp).2 hb (by omega)
      obtain ⟨n, t, hn, ht, hdone⟩ := ih { s with lat := s.lat - 1 } (inv_congr hinv rfl) hf hp (by simp [hlat])
      exact ⟨n + 1, t, by omega, (run_succ hpoll n).trans ht, hdone⟩

theorem exec_port {i : Instr} {s t : State} (h : exec i s = .next t) : t.port = s.port := by
  rcases exec_completes_or_data_eq h with ⟨w, u, -, -, -, hu, rfl⟩ | ⟨-, -, -, hport⟩
  · obtain ⟨-, hport, -⟩ := commandEffect_frame hu
    exact hport
  · exact hport

/-- Every request but a WAIT is performed by one step of the host. -/
theorem requestMove_port {r : Req} {s t : State} (hr : r ≠ .wait) (h : answer (requestMove r s) = .next t) : t.port = s.port := by
  cases r with
  | txn tr =>
    cases hd : decode tr with
    | ok i => rw [requestMove_txn s hd] at h; exact exec_port h
    | error c => rw [requestMove_reserved s hd] at h; cases h; rfl
  | wait => exact absurd rfl hr
  | reset => cases h; rfl

/-- The host's step in a state of the invariants takes its request. -/
theorem step_performs {s : State} {r : Req} {rest : List Req} (hinv : Inv s) (hf : s.fault = none) (hp : s.port = r :: rest)
    (hr : r ≠ .wait) (hb : s.busy = true → isCommandWrite r = false ∧ s.lat ≠ 0) :
    ∃ t, step s = .next t ∧ Inv t ∧ t.port = rest := by
  rcases stepStopsOnlyAfterFault s hinv with ⟨t, ht⟩ | ⟨m, hm, -⟩
  · refine ⟨t, ht, stepKeepsInvariants s t hinv ht, ?_⟩
    rw [step_request hf hp hb] at ht
    exact requestMove_port hr ht
  · simp [hf] at hm

/-- A request at the head of the port is performed in the end: a WAIT by its polls, any other by its own step, which the completion of the
command in flight may precede. -/
theorem request_performed {s : State} {r : Req} {rest : List Req} (hinv : Inv s) (hf : s.fault = none) (hp : s.port = r :: rest) :
    ∃ n t, Host.Core.run core n s = .next t ∧ Inv t ∧ t.port = rest := by
  by_cases hr : r = .wait
  · subst hr
    obtain ⟨n, t, -, ht, hport, -⟩ := everyWaitEnds s rest hinv hf hp
    exact ⟨n, t, ht, run_keeps_inv hinv ht, hport⟩
  by_cases hengine : s.busy = true ∧ (isCommandWrite r = true ∨ s.lat = 0)
  · obtain ⟨hb, hfirst⟩ := hengine
    obtain ⟨u, hu, hinvu, hidle, hnofault, hport, -⟩ := step_completes hinv hf hb (.inr ⟨r, rest, hp, hfirst⟩)
    obtain ⟨t, ht, hinvt, htport⟩ := step_performs hinvu hnofault (hport.trans hp) hr (by simp [hidle])
    exact ⟨2, t, (run_succ hu 1).trans (run_succ ht 0), hinvt, htport⟩
  · obtain ⟨t, ht, hinvt, htport⟩ := step_performs hinv hf hp hr fun hb => by simpa [hb] using hengine
    exact ⟨1, t, run_succ ht 0, hinvt, htport⟩

/-- Settles O45, by induction on the requests in the port: each is performed, up to the first fault. -/
theorem everyProgramEnds : Obligations.EveryProgramEnds := by
  intro s hinv
  induction hport : s.port generalizing s with
  | nil =>
    refine ⟨0, s, rfl, ?_⟩
    cases hf : s.fault with
    | none => exact .inl ⟨hport, by simp [runEnd, hf, hport, lineLeft]⟩
    | some m => exact .inr (by simp [runEnd, hf])
  | cons r rest ih =>
    cases hf : s.fault with
    | none =>
      obtain ⟨m, u, hu, hinvu, huport⟩ := request_performed hinv hf hport
      obtain ⟨n, t, ht, hend⟩ := ih u hinvu huport
      exact ⟨m + n, t, (run_add hu n).trans ht, hend⟩
    | some m => exact ⟨0, s, rfl, .inr (by simp [runEnd, hf])⟩

/-! ### Several engines (20_memory.md R43, 60_exceptions.md R155) -/

section
variable {k : Nat} {xs : List State} {s : State} (hk : xs[k]? = some s)
include hk

theorem stepInstance_next {t : State} (h : step s = .next t) : stepInstance k xs = .next (xs.set k t) := by
  simp only [stepInstance, hk, h]

theorem stepInstance_fault {f : Fault} (h : step s = .fault f) : stepInstance k xs = .fault f := by
  simp only [stepInstance, hk, h]

theorem stepInstance_refused {r : Refusal} (h : step s = .refused r) : stepInstance k xs = .refused r := by
  simp only [stepInstance, hk, h]

/-- A system's step that answers a system is the step of the engine it names. -/
theorem stepInstance_eq_next {ys : List State} (h : stepInstance k xs = .next ys) : ∃ t, step s = .next t ∧ ys = xs.set k t := by
  cases hs : step s with
  | next t => rw [stepInstance_next hk hs] at h; cases h; exact ⟨t, rfl, rfl⟩
  | fault f => rw [stepInstance_fault hk hs] at h; cases h
  | refused r => rw [stepInstance_refused hk hs] at h; cases h

end

/-- Settles O60: a system's step is the step of one of its engines, put in that engine's place. -/
theorem instancesAreIndependent : Obligations.InstancesAreIndependent := by
  intro k xs ys s hk
  refine ⟨fun h => ?_, fun zs hz => ⟨fun t hs => ⟨stepInstance_next hk hs, stepInstance_next hz hs⟩,
    fun f hs => ⟨stepInstance_fault hk hs, stepInstance_fault hz hs⟩,
    fun r hs => ⟨stepInstance_refused hk hs, stepInstance_refused hz hs⟩⟩⟩
  obtain ⟨t, hs, rfl⟩ := stepInstance_eq_next hk h
  obtain ⟨hlt, -⟩ := List.getElem?_eq_some_iff.mp hk
  exact ⟨List.length_set, fun j hj => List.getElem?_set_ne hj.symm, t, hs, List.getElem?_set_self hlt⟩

end Sys2Proof.Proofs

namespace Sys2Proof.Proofs

open Sys2Proof.Machine Sys2Proof.Laws

/-! ### The rolling window (41_compress.md R103, R104) -/

theorem expandWords_add (w : List Word) (m n : Nat) : expandWords w (m + n) = expandWords (expandWords w m) n := by
  induction m generalizing w with
  | zero => rw [Nat.zero_add]; rfl
  | succ m ih => rw [Nat.add_right_comm]; exact ih _

theorem prefix_expandWords (w : List Word) (n : Nat) : w <+: expandWords w n := by
  induction n generalizing w with
  | zero => exact List.prefix_rfl
  | succ n ih => exact (List.prefix_append w _).trans (ih _)

/-- One shift of the window over the last sixteen words is the window over the words with the next one added. -/
theorem windowStep_drop {w : List Word} {k : Nat} (hlen : w.length = k + 16) :
    windowStep (w.drop k) = (w ++ [nextWord w]).drop (k + 1) := by
  have hnext : nextWord w = sig1 ((w.drop k).getD 14 0#32) + (w.drop k).getD 9 0#32 + sig0 ((w.drop k).getD 1 0#32) +
      (w.drop k).getD 0 0#32 := by
    simp [nextWord, hlen]
  rw [windowStep, ← hnext, List.tail_drop, List.drop_append_of_le_length (by omega)]

/-- The window hands out the words that the expansion appends, each sixteen rounds after it was made. -/
theorem windowWords_drop {w : List Word} {k : Nat} (hlen : w.length = k + 16) (n : Nat) :
    windowWords (w.drop k) n = ((expandWords w n).drop k).take n := by
  induction n generalizing w k with
  | zero => rfl
  | succ n ih =>
    have hlong : k < (expandWords w (n + 1)).length := by simp [hlen]; omega
    have holdest : (expandWords w (n + 1))[k] = (w.drop k).getD 0 0#32 := by
      rw [← List.getD_eq_getElem _ 0#32 hlong, expandWords_getD_of_lt _ (by omega)]
      simp
    rw [windowWords, windowStep_drop hlen, ih (by simp [hlen]), List.drop_eq_getElem_cons hlong, List.take_succ_cons, holdest]
    rfl

/-- R103: sixteen words at a time give the schedule's 64. -/
theorem windowWords_loadWords (b : Block) : windowWords (loadWords b) 64 = schedule b := by
  have hwindow := windowWords_drop (w := loadWords b) (k := 0) (by simp) 64
  have hprefix : schedule b <+: expandWords (loadWords b) 64 := by
    rw [show 64 = 48 + 16 from rfl, expandWords_add]
    exact prefix_expandWords _ _
  rw [List.drop_zero, List.drop_zero] at hwindow
  rw [hwindow, List.prefix_iff_eq_take.mp hprefix, schedule_length]

/-- R104: the round-serial datapath runs the rounds on the words its window hands out. -/
theorem serialRounds_eq_foldl (ks w : List Word) (v : Working) :
    serialRounds ks w v = (ks.zip (windowWords w ks.length)).foldl (fun v kw => roundStep kw.1 kw.2 v) v := by
  induction ks generalizing w v with
  | nil => rfl
  | cons k ks ih => exact ih _ _

/-- Settles O12, from the words of the window and the rounds on them. -/
theorem serialDatapathRefinesCompress : Obligations.SerialDatapathRefinesCompress := by
  refine ⟨windowWords_loadWords, fun h b => ?_⟩
  rw [compressSerial, compress, serialRounds_eq_foldl, roundConstants_length, windowWords_loadWords, rounds]

end Sys2Proof.Proofs

namespace Sys2Proof.Proofs

open Sys2Proof.Machine Sys2Proof.Laws

/-! ### Byte sequences as blocks (41_compress.md R100) -/

theorem blockOf_append {p : List Byte} (q : List Byte) (hp : 64 ≤ p.length) : blockOf (p ++ q) = blockOf p := by
  refine Vector.ext fun k hk => ?_
  simp only [blockOf, Vector.getElem_ofFn]
  exact List.getD_append _ _ _ _ (by omega)

theorem blockOf_toList (x : Block) : blockOf x.toList = x := by
  refine Vector.ext fun k hk => ?_
  simp [blockOf]

/-- The blocks of a sequence that begins with whole blocks are those blocks and then the rest's. -/
theorem wholeBlocks_append {p : List Byte} (q : List Byte) (hp : p.length % 64 = 0) :
    wholeBlocks (p ++ q) = wholeBlocks p ++ wholeBlocks q := by
  have hcount : (p ++ q).length / 64 = p.length / 64 + q.length / 64 := by simp; omega
  rw [wholeBlocks, hcount, List.range_add, List.map_append, List.map_map]
  refine congrArg₂ (· ++ ·) ?_ ?_
  · refine List.map_congr_left fun j hj => ?_
    have hblock : 64 * j + 64 ≤ p.length := by simp at hj; omega
    rw [List.drop_append_of_le_length (by omega), blockOf_append _ (by simp; omega)]
  · refine List.map_congr_left fun j _ => ?_
    have hstart : 64 * (p.length / 64 + j) = p.length + 64 * j := by omega
    rw [Function.comp_apply, hstart, List.drop_length_add_append]

theorem wholeBlocks_of_length_lt {q : List Byte} (hq : q.length < 64) : wholeBlocks q = [] := by
  rw [wholeBlocks, Nat.div_eq_of_lt hq]
  rfl

theorem wholeBlocks_of_length_eq {q : List Byte} (hq : q.length = 64) : wholeBlocks q = [blockOf q] := by
  rw [wholeBlocks, hq]
  rfl

/-- A byte written right after the first `n` bytes of the buffer extends them. -/
theorem take_succ_set (buf : Block) {n : Nat} (hn : n < 64) (b : Byte) :
    (buf.set n b).toList.take (n + 1) = buf.toList.take n ++ [b] := by
  rw [Vector.toList_set, List.take_succ_eq_append_getElem (by simpa using hn), List.take_set_of_le le_rfl, List.getElem_set_self]

/-! ### A message absorbed (40_init_absorb.md R73, 10_state.md R31) -/

/-- The engine has absorbed the whole blocks `p` and then the bytes `q`, which stand in the buffer. -/
structure AbsorbedParts (p q : List Byte) (s : State) : Prop where
  absorbing : Absorbing s
  whole : p.length % 64 = 0
  h : s.h = (wholeBlocks p).foldl compress iv
  bitcnt : s.bitcnt.toNat = 8 * p.length % 2 ^ 64
  fill : s.fill.toNat = q.length
  buffered : s.buf.toList.take q.length = q

theorem AbsorbedParts.length_lt {p q : List Byte} {s : State} (h : AbsorbedParts p q s) : q.length < 64 :=
  h.fill ▸ h.absorbing.fill

/-- The engine has absorbed `m`. -/
def Absorbed (m : List Byte) (s : State) : Prop := ∃ p q, m = p ++ q ∧ AbsorbedParts p q s

theorem Fresh.absorbed {s : State} (hs : Fresh s) : Absorbed [] s :=
  ⟨[], [], rfl, hs.absorbing, rfl, hs.h, by rw [hs.bitcnt]; rfl, by rw [hs.fill]; rfl, rfl⟩

/-- The 64th byte ends a block. -/
theorem AbsorbedParts.block {p q : List Byte} {s : State} (h : AbsorbedParts p q s) (hfull : s.fill.toNat = 63) (b : Byte) :
    ∃ t, perform (.absorb b) s = .next t ∧ AbsorbedParts (p ++ (q ++ [b])) [] t := by
  have hq : q.length = 63 := h.fill.symm.trans hfull
  have hblock : (q ++ [b]).length = 64 := by simp [hq]
  have hbuf : (s.buf.set 63 b).toList = q ++ [b] := by
    have hbuffered := h.buffered
    rw [hq] at hbuffered
    rw [← hbuffered, ← take_succ_set s.buf (by decide) b]
    exact (List.take_of_length_le (by simp)).symm
  have hchain : compress s.h (s.buf.set 63 b) = (wholeBlocks (p ++ (q ++ [b]))).foldl compress iv := by
    rw [wholeBlocks_append _ h.whole, wholeBlocks_of_length_eq hblock, List.foldl_append, ← h.h, ← hbuf, blockOf_toList]
    rfl
  rw [perform_absorb h.absorbing, absorbEffect_block (s := s.accept _) b hfull]
  refine ⟨_, rfl, ⟨h.absorbing.fault, rfl, h.absorbing.finalized, by simp⟩, ?_, ?_, ?_, rfl, rfl⟩
  · rw [List.length_append, hblock, Nat.add_mod_right, h.whole]
  · rw [← hchain]
    simp [hfull]
  · have hbits := h.bitcnt
    rw [List.length_append, hblock]
    simp [BitVec.toNat_add, hbits]
    omega

/-- Any other byte is buffered. -/
theorem AbsorbedParts.append {p q : List Byte} {s : State} (h : AbsorbedParts p q s) (hroom : s.fill.toNat < 63) (b : Byte) :
    ∃ t, perform (.absorb b) s = .next t ∧ AbsorbedParts p (q ++ [b]) t := by
  have hq : (q ++ [b]).length = s.fill.toNat + 1 := by simp [h.fill]
  have hfill : (s.fill + 1#7).toNat = s.fill.toNat + 1 := BitVec.toNat_add_of_lt (by simp; omega)
  have hbuf : (s.buf.set s.fill.toNat b).toList.take (s.fill.toNat + 1) = q ++ [b] := by
    rw [take_succ_set s.buf h.absorbing.fill, h.fill, h.buffered]
  rw [perform_absorb h.absorbing, absorbEffect_append (s := s.accept _) b hroom]
  have hlt : (s.fill + 1#7).toNat < 64 := by omega
  exact ⟨_, rfl, ⟨h.absorbing.fault, rfl, h.absorbing.finalized, hlt⟩, h.whole, h.h, h.bitcnt, hfill.trans hq.symm, hq ▸ hbuf⟩

theorem perform_absorb_absorbed {m : List Byte} (b : Byte) {s : State} (hs : Absorbed m s) :
    ∃ t, perform (.absorb b) s = .next t ∧ Absorbed (m ++ [b]) t := by
  obtain ⟨p, q, rfl, h⟩ := hs
  by_cases hfull : s.fill.toNat = 63
  · obtain ⟨t, ht, hparts⟩ := h.block hfull b
    exact ⟨t, ht, _, _, by simp, hparts⟩
  · have hroom : s.fill.toNat < 63 := by have := h.absorbing.fill; omega
    obtain ⟨t, ht, hparts⟩ := h.append hroom b
    exact ⟨t, ht, _, _, by simp, hparts⟩

/-- From either start of a message the engine absorbs it. -/
theorem performAll_absorbed {start : List Instr} {s : State} (m : List Byte)
    (hs : (start = [.init] ∧ s.fault = none ∧ s.busy = false) ∨ (start = [] ∧ s = State.reset)) :
    ∃ t, performAll (start ++ absorbs m) s = .next t ∧ Absorbed m t := by
  obtain ⟨u, hu, hfresh⟩ := performAll_start hs
  obtain ⟨t, ht, habsorbed⟩ := performAll_absorbs (fun _ b _ => perform_absorb_absorbed b) [] m hfresh.absorbed
  exact ⟨t, (performAll_append hu).trans ht, habsorbed⟩

/-- Settles O53: the whole blocks and the rest of a message are its two parts. -/
theorem absorbedMessageState : Obligations.AbsorbedMessageState := by
  intro start s m hs
  obtain ⟨t, ht, p, q, rfl, h⟩ := performAll_absorbed m hs
  have hq := h.length_lt
  have hwhole := h.whole
  have hp : 64 * ((p ++ q).length / 64) = p.length := by simp; omega
  refine ⟨t, ht, h.absorbing.fault, h.absorbing.busy, h.absorbing.finalized, ?_, ?_, ?_, ?_⟩
  · rw [h.fill, List.length_append]
    omega
  · rw [h.bitcnt]
    omega
  · rw [h.h, wholeBlocks_append _ hwhole, wholeBlocks_of_length_lt hq, List.append_nil]
  · rw [h.fill, h.buffered, hp, List.drop_left]

/-! ### The padded message (42_finalize.md R118) -/

/-- Settles O55, from the zero count modulo 64. -/
theorem paddingZerosAreLeast : Obligations.PaddingZerosAreLeast := by
  refine fun m => ⟨?_, fun k hk => ?_⟩
  · simp only [paddedMessage, List.length_append, List.length_singleton, zeros_length, be64bytes_length, paddingZeros]
    omega
  · simp only [paddingZeros]
    omega

/-- The engine's one or two padding blocks are the blocks of the padding that R118 appends to the buffered bytes. -/
theorem paddingBlocks_eq_wholeBlocks (buf : Block) {n l : Nat} (hn : n < 64) (hl : l % 64 = n) (len : Count) :
    paddingBlocks buf n len = wholeBlocks (buf.toList.take n ++ [0x80#8] ++ zeros (paddingZeros l) ++ be64bytes len) := by
  by_cases hone : n ≤ 55
  · have hzeros : paddingZeros l = 55 - n := by rw [paddingZeros]; omega
    rw [hzeros, paddingBlocks_oneBlock buf hone, wholeBlocks_of_length_eq]
    rw [← finalPadding_oneBlock buf hone]
    exact finalPadding_length buf (by omega) len
  · have hzeros : zeros (paddingZeros l) = zeros (63 - n) ++ zeros 56 := by
      rw [zeros, zeros, zeros, List.replicate_append_replicate, paddingZeros]
      congr 1
      omega
    have hfirst : (buf.toList.take n ++ [0x80#8] ++ zeros (63 - n)).length = 64 := firstPadding_length buf (by omega)
    rw [hzeros, paddingBlocks_twoBlocks buf (by omega), ← List.append_assoc, List.append_assoc _ (zeros 56),
      wholeBlocks_append _ (by rw [hfirst]), wholeBlocks_of_length_eq hfirst, wholeBlocks_of_length_eq rfl]
    rfl

/-- R112: after a message the length field holds its bit length. -/
theorem AbsorbedParts.lengthField_eq {p q : List Byte} {s : State} (h : AbsorbedParts p q s) :
    lengthField s.bitcnt s.fill = BitVec.ofNat 64 (8 * (p ++ q).length) := by
  refine BitVec.eq_of_toNat_eq ?_
  rw [lengthField_toNat, h.bitcnt, h.fill, BitVec.toNat_ofNat, List.length_append]
  omega

/-- FINALIZE's chaining value is that of the whole padded message. -/
theorem AbsorbedParts.finalChain_eq {p q : List Byte} {s : State} (h : AbsorbedParts p q s) :
    finalChain s = (wholeBlocks (paddedMessage (p ++ q))).foldl compress iv := by
  have hrest : (p ++ q).length % 64 = q.length := by
    have hq := h.length_lt
    have hwhole := h.whole
    rw [List.length_append]
    omega
  have hpadded : paddedMessage (p ++ q) = p ++ (s.buf.toList.take q.length ++ [0x80#8] ++ zeros (paddingZeros (p ++ q).length) ++
      be64bytes (lengthField s.bitcnt s.fill)) := by
    rw [h.buffered, h.lengthField_eq, paddedMessage]
    simp only [List.append_assoc]
  rw [hpadded, wholeBlocks_append _ h.whole, List.foldl_append, ← h.h, ← paddingBlocks_eq_wholeBlocks _ h.length_lt hrest, ← h.fill]
  rfl

/-- Settles O54: FINALIZE completes with the chaining value of the padded message. -/
theorem digestIsHashOfPaddedMessage : Obligations.DigestIsHashOfPaddedMessage := by
  intro start s m hs
  obtain ⟨t, ht, p, q, rfl, h⟩ := performAll_absorbed m hs
  have hroom : (t.accept 0x0300#16).fill.toNat < 64 := h.absorbing.fill
  have hfinalize : perform .finalize t = finish (finalizeEffect (t.accept 0x0300#16)) :=
    perform_command rfl h.absorbing.fault h.absorbing.busy (.inr h.absorbing.finalized)
  rw [finalizeEffect, if_pos hroom] at hfinalize
  exact ⟨_, (performAll_append ht).trans (performAll_cons hfinalize), h.absorbing.fault, rfl, rfl, congrArg serialize h.finalChain_eq⟩

/-! ### Chunks of a message, and INIT again (40_init_absorb.md R71, R75) -/

/-- A value recorded before an ABSORB stands in the record after it, and changes nothing else. -/
theorem perform_absorb_record {s : State} (hs : Absorbing s) (b : Byte) (v : Word) :
    ∃ t, perform (.absorb b) s = .next t ∧ Absorbing t ∧ t.out = s.out ∧ perform (.absorb b) (s.record v) = .next (t.record v) := by
  have hrecord : Absorbing (s.record v) := ⟨hs.fault, hs.busy, hs.finalized, hs.fill⟩
  rw [perform_absorb hs, perform_absorb hrecord]
  by_cases hfull : s.fill.toNat = 63
  · rw [absorbEffect_block (s := s.accept _) b hfull, absorbEffect_block (s := (s.record v).accept _) b hfull]
    exact ⟨_, rfl, ⟨hs.fault, rfl, hs.finalized, by simp⟩, rfl, rfl⟩
  · have hroom : s.fill.toNat < 63 := by have := hs.fill; omega
    rw [absorbEffect_append (s := s.accept _) b hroom, absorbEffect_append (s := (s.record v).accept _) b hroom]
    have hlt : (s.fill + 1#7).toNat < 64 := by simp; omega
    exact ⟨_, rfl, ⟨hs.fault, rfl, hs.finalized, hlt⟩, rfl, rfl⟩

/-- The state `t` after `m` from `s`, with nothing recorded, and the same but for the record with `v` recorded before. -/
def AbsorbsUnder (s : State) (v : Word) (m : List Byte) (t : State) : Prop :=
  Absorbing t ∧ t.out = s.out ∧ performAll (absorbs m) (s.record v) = .next (t.record v)

theorem performAll_absorbs_record {s : State} (hs : Absorbing s) (m : List Byte) (v : Word) :
    ∃ t, performAll (absorbs m) s = .next t ∧ AbsorbsUnder s v m t := by
  refine performAll_absorbs (P := AbsorbsUnder s v) (fun m b u ⟨hu, hout, hperform⟩ => ?_) [] m ⟨hs, rfl, rfl⟩
  obtain ⟨t, ht, hat, htout, hrecord⟩ := perform_absorb_record hu b v
  refine ⟨t, ht, hat, htout.trans hout, ?_⟩
  rw [absorbs, List.map_append]
  exact (performAll_append hperform).trans (performAll_cons hrecord)

/-- Settles O56: STATUS is 0 between the chunks, and the recorded value changes nothing of what follows. -/
theorem chunkingIsInvisible : Obligations.ChunkingIsInvisible := by
  intro s m n hf hb hfin hfill
  have hs : Absorbing s := ⟨hf, hb, hfin, Nat.lt_succ_of_le hfill⟩
  obtain ⟨u, hu, hau, huout, -⟩ := performAll_absorbs_record hs m 0#32
  obtain ⟨t, ht, -, htout, hrecord⟩ := performAll_absorbs_record hau n 0#32
  have hstatus : perform .rdstatus u = .next (u.record 0#32) := by
    have hvalue : statusWord u = 0#32 := by rw [statusWord, hau.busy, hau.finalized]; rfl
    have hread : exec .rdstatus u = .next (u.record 0#32) := hvalue ▸ hostRead_needsNoDigest hau.fault
    simp only [perform, hread, State.record_busy, hau.busy]
    rfl
  refine ⟨t, t.record 0#32, ?_, ?_, ?_⟩
  · rw [absorbs, List.map_append]
    exact (performAll_append hu).trans ht
  · exact (performAll_append hu).trans ((performAll_cons hstatus).trans hrecord)
  · rw [← huout, ← htout]
    rfl

/-- Settles O57: INIT's effect does not depend on what was there before. -/
theorem initIsIdempotentAndLikeReset : Obligations.InitIsIdempotentAndLikeReset := by
  intro s hf hb
  have hinit (u : State) (hf : u.fault = none) (hb : u.busy = false) : perform .init u = finish (initEffect (u.accept 0x0100#16)) :=
    perform_command rfl hf hb (.inl rfl)
  exact ⟨_, _, performAll_cons (hinit s hf hb), (performAll_cons (hinit s hf hb)).trans (performAll_cons (hinit _ hf rfl)),
    rfl, rfl, rfl, rfl, rfl, rfl⟩

end Sys2Proof.Proofs

namespace Sys2Proof.Proofs

open Sys2Proof.Machine Sys2Proof.Laws

/-! ### The lines of a host program (30_encoding.md R62 to R69) -/

/-- The opcode bits above an operand add their value to it. -/
theorem ofNat_append_ofNat {m k : Nat} (op : BitVec m) {n : Nat} (hn : n < 2 ^ k) :
    op ++ BitVec.ofNat k n = BitVec.ofNat (m + k) (2 ^ k * op.toNat + n) := by
  refine BitVec.eq_of_toNat_eq ?_
  have hlt := (op ++ BitVec.ofNat k n).isLt
  rw [toNat_append_eq_add, BitVec.toNat_ofNat, Nat.mod_eq_of_lt hn] at hlt ⊢
  rw [BitVec.toNat_ofNat, Nat.mod_eq_of_lt hlt]

theorem absorbWord_ofNat {n : Nat} (hn : n < 256) : absorbWord (BitVec.ofNat 8 n) = BitVec.ofNat 16 (0x0200 + n) :=
  ofNat_append_ofNat 0x02#8 hn

theorem digestAddr_ofNat {n : Nat} (hn : n < 8) : digestAddr (BitVec.ofNat 3 n) = BitVec.ofNat 7 (0x08 + n) :=
  ofNat_append_ofNat 0b0001#4 hn

theorem hexAddr_ofNat {n : Nat} (hn : n < 64) : hexAddr (BitVec.ofNat 6 n) = BitVec.ofNat 7 (0x40 + n) :=
  ofNat_append_ofNat 1#1 hn

theorem absorbReqs_eq (m : List Byte) : absorbReqs m = m.map fun b => .txn (.cmd (0x0200#16 + b.setWidth 16)) :=
  List.map_congr_left fun b _ => congrArg (fun w => Req.txn (.cmd w)) (absorbWord_eq_add b)

/-- A line with an operand in range is one transaction, and out of range none. -/
theorem ite_lt_eq_ite_le {α : Type} {n k : Nat} {x y : α} (h : n < k + 1 → x = y) :
    (if n < k + 1 then some x else none) = if n ≤ k then some y else none := by
  by_cases hn : n ≤ k
  · rw [if_pos hn, if_pos (Nat.lt_succ_of_le hn), h (Nat.lt_succ_of_le hn)]
  · rw [if_neg hn, if_neg (by omega)]

/-- Settles O58: each operand's word or address is its opcode's plus the operand. -/
theorem linesExpandToTransactions : Obligations.LinesExpandToTransactions := by
  refine ⟨⟨rfl, rfl, rfl, rfl⟩, fun n => ⟨?_, ?_, ?_, ?_, ?_⟩, fun m => ?_, fun m => ?_, ?_, ?_⟩
  · exact ite_lt_eq_ite_le fun _ => rfl
  · exact ite_lt_eq_ite_le fun _ => rfl
  · exact ite_lt_eq_ite_le fun hn => by rw [opReq, encode, absorbWord_ofNat hn]
  · exact ite_lt_eq_ite_le fun hn => by rw [opReq, encode, digestAddr_ofNat hn]
  · exact ite_lt_eq_ite_le fun hn => by rw [opReq, encode, hexAddr_ofNat hn]
  · rw [Line.expand, absorbReqs_eq]
  · rw [Line.expand, absorbReqs_eq]
    simp [opReq, encode]
  · refine congrArg some (List.map_congr_left fun i hi => ?_)
    rw [opReq, encode, digestAddr_ofNat (List.mem_range.mp hi)]
  · refine congrArg some (List.map_congr_left fun j hj => ?_)
    rw [opReq, encode, hexAddr_ofNat (List.mem_range.mp hj)]

/-! ### The text of an ABSORBX line (30_encoding.md R65 to R67) -/

/-- The character of a nibble's hex digit. -/
def digitChar (v : BitVec 4) : Char := Char.ofNat (hexdigit v).toNat

theorem isBlank_digitChar (v : BitVec 4) : isBlank (digitChar v) = false := by
  revert v
  decide

theorem digitChar_toNat_ne_lineEnd (v : BitVec 4) : (digitChar v).toNat ≠ 10 := by
  revert v
  decide

/-- The two digits of a byte, high nibble first. -/
def bytePair (b : Byte) : List Char := [digitChar (b.extractLsb' 4 4), digitChar (b.extractLsb' 0 4)]

/-- The characters of `m` in hex. -/
def hexText (m : List Byte) : List Char := m.flatMap bytePair

theorem hexText_cons (b : Byte) (m : List Byte) :
    hexText (b :: m) = digitChar (b.extractLsb' 4 4) :: digitChar (b.extractLsb' 0 4) :: hexText m := rfl

theorem mem_hexText {c : Char} {m : List Byte} (h : c ∈ hexText m) : ∃ v, c = digitChar v := by
  obtain ⟨b, -, hb⟩ := List.mem_flatMap.mp h
  rcases List.mem_pair.mp hb with rfl | rfl
  · exact ⟨_, rfl⟩
  · exact ⟨_, rfl⟩

theorem hexBytes_hexText (m : List Byte) : hexBytes (hexText m) = some (m, []) := by
  induction m with
  | nil => rfl
  | cons b m ih =>
    have hbyte : BitVec.ofNat 8 (16 * (b.extractLsb' 4 4).toNat + (b.extractLsb' 0 4).toNat) = b := by
      rw [highNibble_toNat, lowNibble_toNat, Nat.div_add_mod, BitVec.ofNat_toNat, BitVec.setWidth_eq]
    have hhigh : hexValue (digitChar (b.extractLsb' 4 4)) = some (b.extractLsb' 4 4).toNat := hexValue_hexdigit _
    have hlow : hexValue (digitChar (b.extractLsb' 0 4)) = some (b.extractLsb' 0 4).toNat := hexValue_hexdigit _
    rw [hexText_cons, hexBytes, hhigh, hlow, ih]
    simp only [hbyte]

theorem dropWhile_isBlank_hexText (m : List Byte) : (hexText m).dropWhile isBlank = hexText m := by
  cases m with
  | nil => rfl
  | cons b m => rw [hexText_cons, List.dropWhile_cons_of_neg (by simp [isBlank_digitChar])]

/-- A text with no line end is one line. -/
theorem cutLines_of_forall_ne (line : List Char) {cs : List Char} (h : ∀ c ∈ cs, c.toNat ≠ 10) :
    cutLines line cs = [line.reverse ++ cs] := by
  induction cs generalizing line with
  | nil => simp [cutLines]
  | cons c cs ih =>
    rw [cutLines, if_neg (h c List.mem_cons_self), ih (c :: line) fun d hd => h d (List.mem_cons_of_mem c hd)]
    simp

/-- The mnemonic and the blank after it. -/
def absorbxHead : List Char := ['A', 'B', 'S', 'O', 'R', 'B', 'X', ' ']

theorem cutLines_absorbx (m : List Byte) : cutLines [] (absorbxHead ++ hexText m) = [absorbxHead ++ hexText m] := by
  have hdigits : ∀ c ∈ hexText m, c.toNat ≠ 10 := fun c hc => by
    obtain ⟨v, rfl⟩ := mem_hexText hc
    exact digitChar_toNat_ne_lineEnd v
  exact cutLines_of_forall_ne absorbxHead.reverse hdigits

/-- After its blank the operand is all hex digits, to the end of the line. -/
theorem withOperand_hexText (m : List Byte) : withOperand hexBytes .absorbs (' ' :: hexText m) = some (.absorbs m) := by
  have hblank : (' ' :: hexText m).dropWhile isBlank = hexText m := dropWhile_isBlank_hexText m
  simp only [withOperand, hblank, hexBytes_hexText]
  rfl

theorem parseLine_absorbx (m : List Byte) : parseLine (absorbxHead ++ hexText m) = some [.absorbs m] := by
  have hline : lineOf ['A', 'B', 'S', 'O', 'R', 'B', 'X'] (' ' :: hexText m) = some (.absorbs m) := withOperand_hexText m
  have hnotEmpty : lineEnds (absorbxHead ++ hexText m) = false := rfl
  have hstart : (absorbxHead ++ hexText m).dropWhile isBlank = absorbxHead ++ hexText m := rfl
  have hmnemonic : (absorbxHead ++ hexText m).takeWhile inMnemonic = ['A', 'B', 'S', 'O', 'R', 'B', 'X'] := rfl
  have hoperand : (absorbxHead ++ hexText m).dropWhile inMnemonic = ' ' :: hexText m := rfl
  simp only [parseLine, hnotEmpty, hstart, hmnemonic, hoperand, hline]
  rfl

/-- Settles O59: the text is one line, whose operand is the bytes. -/
theorem absorbxTextAssemblesToItsBytes : Obligations.AbsorbxTextAssemblesToItsBytes := by
  intro m
  have hparsed : parseLines (cutLines [] (absorbxHead ++ hexText m)) = some [.absorbs m] := by
    rw [cutLines_absorbx, parseLines, parseLine_absorbx]
    rfl
  calc assemble (absorbxHead ++ hexText m)
      = expandAll [.absorbs m] := by rw [assemble, hparsed]
    _ = some (absorbReqs m ++ []) := rfl
    _ = some (absorbReqs m) := by rw [List.append_nil]

end Sys2Proof.Proofs
